-- ==== Sys2Proof/Word.lean ====
section
/-! DEFINITION. The word types of the block (spec/00_scope.md R18): every value is unsigned, a byte has 8
bits, a command word 32, a DCB offset 16. -/

namespace Sys2Proof

/-- A byte, 0..255 (R18). -/
abbrev Byte := BitVec 8

/-- A 16-bit unsigned value: a DCB offset or a length field (R79). -/
abbrev Half := BitVec 16

/-- A 32-bit command word, bit 0 least significant (R62). -/
abbrev CmdWord := BitVec 32

end Sys2Proof
end

