-- ==== Sys2Proof/Syntax.lean ====
section
/-! DEFINITION. The commands of the block (spec/30_encoding.md sections 1 to 3): one constructor of `Instr` per row of
spec/opcode_table.json, with the fields of its format and its data bytes as operands. -/

namespace Sys2Proof

/-- The function code `F` of a transaction and the statistics direction `D` (R27, R62, R78): 0 is READ (read-all),
1 is WRITE (write-field). R27: the direction is the expected function F. -/
inductive Dir where
  | read
  | write
  deriving DecidableEq, Repr

/-- The five counters of one address and direction (R27, R68). -/
inductive Counter where
  | txn
  | csum
  | nodata
  | proto
  | hard
  deriving DecidableEq, Repr

/-- A command as a host delivers it (R60): a 32-bit word and a byte list. -/
structure Command where
  word : CmdWord
  data : List Byte
  deriving DecidableEq, Repr

/-- The assigned opcodes (R69). -/
inductive Opcode where
  | crcInit
  | crcUpdate
  | crcFinish
  | frmRead
  | frmWrite
  | frmVerify
  | busExec
  | statRead
  deriving DecidableEq, Repr

/-- The command word formats (R63 to R68); B and A have one layout (R64). -/
inductive Format where
  | n
  | b
  | ao
  | af
  | as
  deriving DecidableEq, Repr

/-- The commands (R69), one constructor per row of the opcode table. -/
inductive Instr where
  /-- `CRC.INIT` (R110). -/
  | crcInit
  /-- `CRC.UPDATE imm8` (R111). -/
  | crcUpdate (imm8 : Byte)
  /-- `CRC.FINISH` (R112). -/
  | crcFinish
  /-- `FRM.READ addr` (R125). -/
  | frmRead (addr : Byte)
  /-- `FRM.WRITE addr, off16, payload` (R126). -/
  | frmWrite (addr : Byte) (off16 : Half) (payload : List Byte)
  /-- `FRM.VERIFY addr, f, reply` (R135). -/
  | frmVerify (addr : Byte) (f : Dir) (reply : List Byte)
  /-- `BUS.EXEC addr, f, frame` (R152). -/
  | busExec (addr : Byte) (f : Dir) (frame : List Byte)
  /-- `STAT.READ addr, d, c` (R180); c is the 3-bit select as encoded, 5..7 are reserved values (R68). -/
  | statRead (addr : Byte) (d : Dir) (c : BitVec 3)
  deriving DecidableEq, Repr

end Sys2Proof
end

