-- ==== Sys2Proof/Decode.lean ====
section
/-! DEFINITION. Decoding and encoding of commands (spec/30_encoding.md R62 to R73, R81). The decoder is total; it
rejects by name in the order of R153: unassigned opcode, then reserved bits or data on a command that takes none. -/

namespace Sys2Proof

/-- Why a command word is no command: both are answered ILLEGAL_CMD (R72, R73). -/
inductive DecodeError where
  /-- `OP` is not in the opcode map (R73). -/
  | unassignedOpcode
  /-- a bit that no field of the format covers is 1 (R72). -/
  | reservedBits
  /-- data on a command of format N, B, A or AS (R72). -/
  | unexpectedData
  deriving DecidableEq, Repr

/-- `OP` = bits [7:0] of every format (R62). -/
def opField (w : CmdWord) : Byte := w.extractLsb' 0 8

/-- `IMM8` or `ADDR` = bits [15:8] (R62). -/
def addrField (w : CmdWord) : Byte := w.extractLsb' 8 8

/-- `OFF16` = bits [31:16] (R67). -/
def off16Field (w : CmdWord) : Half := w.extractLsb' 16 16

/-- `F` or `D` = bit [16] (R65, R68): 0 read, 1 write. -/
def dirField (w : CmdWord) : Dir := if w.extractLsb' 16 1 = 1#1 then .write else .read

/-- `C` = bits [19:17] (R68). -/
def ctrField (w : CmdWord) : BitVec 3 := w.extractLsb' 17 3

/-- The one bit of `F` or `D`. -/
def Dir.bit : Dir → BitVec 1
  | .read => 0
  | .write => 1

/-- The opcode map (R69). -/
def Opcode.byte : Opcode → Byte
  | .crcInit => 0x01
  | .crcUpdate => 0x02
  | .crcFinish => 0x03
  | .frmRead => 0x10
  | .frmWrite => 0x11
  | .frmVerify => 0x12
  | .busExec => 0x20
  | .statRead => 0x30

/-- The opcode a byte names, none for an unassigned value (R69, R73). -/
def Opcode.ofByte (b : Byte) : Option Opcode :=
  if b = 0x01 then some .crcInit
  else if b = 0x02 then some .crcUpdate
  else if b = 0x03 then some .crcFinish
  else if b = 0x10 then some .frmRead
  else if b = 0x11 then some .frmWrite
  else if b = 0x12 then some .frmVerify
  else if b = 0x20 then some .busExec
  else if b = 0x30 then some .statRead
  else none

/-- The format of each opcode (R69). -/
def Opcode.format : Opcode → Format
  | .crcInit => .n
  | .crcUpdate => .b
  | .crcFinish => .n
  | .frmRead => .b
  | .frmWrite => .ao
  | .frmVerify => .af
  | .busExec => .af
  | .statRead => .as

/-- Whether the reserved bits of the format are all 0 (R63 to R68, R72). -/
def Format.reservedClear : Format → CmdWord → Bool
  | .n, w => w.extractLsb' 8 24 = 0
  | .b, w => w.extractLsb' 16 16 = 0
  | .ao, _ => true
  | .af, w => w.extractLsb' 17 15 = 0
  | .as, w => w.extractLsb' 20 12 = 0

/-- The formats whose commands carry data (R65, R67; R63, R64, R68 say "data must be empty"). -/
def Format.takesData : Format → Bool
  | .n => false
  | .b => false
  | .ao => true
  | .af => true
  | .as => false

/-- The instruction with the fields of its format, once the checks of R72 and R73 have passed. -/
def Opcode.instr (op : Opcode) (c : Command) : Instr :=
  match op with
  | .crcInit => .crcInit
  | .crcUpdate => .crcUpdate (addrField c.word)
  | .crcFinish => .crcFinish
  | .frmRead => .frmRead (addrField c.word)
  | .frmWrite => .frmWrite (addrField c.word) (off16Field c.word) c.data
  | .frmVerify => .frmVerify (addrField c.word) (dirField c.word) c.data
  | .busExec => .busExec (addrField c.word) (dirField c.word) c.data
  | .statRead => .statRead (addrField c.word) (dirField c.word) (ctrField c.word)

/-- Decode a command (R153: the checks in their order). -/
def decode (c : Command) : Except DecodeError Instr :=
  match Opcode.ofByte (opField c.word) with
  | none => .error .unassignedOpcode
  | some op =>
    if op.format.reservedClear c.word = false then .error .reservedBits
    else if op.format.takesData = false ∧ c.data ≠ [] then .error .unexpectedData
    else .ok (op.instr c)

/-- A word of format N (R63). -/
def wordN (op : Byte) : CmdWord := (0#24 ++ op)

/-- A word of format B or A (R64). -/
def wordB (op b : Byte) : CmdWord := (0#16 ++ b ++ op)

/-- A word of format AO (R67). -/
def wordAO (op a : Byte) (off : Half) : CmdWord := (off ++ a ++ op)

/-- A word of format AF (R65). -/
def wordAF (op a : Byte) (f : Dir) : CmdWord := (0#15 ++ f.bit ++ a ++ op)

/-- A word of format AS (R68). -/
def wordAS (op a : Byte) (d : Dir) (c : BitVec 3) : CmdWord := (0#12 ++ c ++ d.bit ++ a ++ op)

/-- The command of an instruction (R63 to R69): its word and its data. -/
def encode : Instr → Command
  | .crcInit => ⟨wordN Opcode.crcInit.byte, []⟩
  | .crcUpdate b => ⟨wordB Opcode.crcUpdate.byte b, []⟩
  | .crcFinish => ⟨wordN Opcode.crcFinish.byte, []⟩
  | .frmRead a => ⟨wordB Opcode.frmRead.byte a, []⟩
  | .frmWrite a off payload => ⟨wordAO Opcode.frmWrite.byte a off, payload⟩
  | .frmVerify a f reply => ⟨wordAF Opcode.frmVerify.byte a f, reply⟩
  | .busExec a f frame => ⟨wordAF Opcode.busExec.byte a f, frame⟩
  | .statRead a d c => ⟨wordAS Opcode.statRead.byte a d c, []⟩

/-- The command whose low nbits bits are those of w and whose other bits are 0, with no data bytes (the table gives the
data of FRM.WRITE, FRM.VERIFY and BUS.EXEC no bits; log 3). -/
def commandOfBits (nbits w : Nat) : Command := ⟨BitVec.ofNat 32 (w % 2 ^ nbits), []⟩

/-- The instruction the decoder reads from a table word. -/
def decodeTableWord (nbits w : Nat) : Option Instr :=
  match decode (commandOfBits nbits w) with
  | .ok i => some i
  | .error _ => none

end Sys2Proof
end

