-- ==== Sys2Proof/Config.lean ====
section
/-! DEFINITION. What one instance of the block is constructed with (spec/00_scope.md section 3), the answers its
environment can give (spec/42_transport.md section 5), and the free values: what the spec leaves to the
environment, as constants without a body. The parameters' default values are in Machine/Defaults.lean. -/

namespace Sys2Proof

/-- The two 16-entry byte tables of the CRC step, `CRC_TABLE` (R15, R32, R101), indexed by a 4-bit value. -/
structure CrcTable where
  hi : Vector Byte 16
  lo : Vector Byte 16
  deriving DecidableEq, Repr

/-- `LINK_CFG` (R30): a network bridge address `(host, port)`, a local device path, both optional. -/
structure LinkCfg where
  bridge : Option (String × Nat)
  device : Option String
  deriving DecidableEq, Repr

/-- The parameters of an instance (R8 to R15, R30). No step changes them. -/
structure Params where
  /-- `N_PORTS` (R10). -/
  nPorts : Nat
  /-- `N_PORTS ≥ 1` (R10): there are no parameters with no port, so there is no instance with none. -/
  nPorts_pos : 1 ≤ nPorts
  /-- `RX_MAX` (R9). -/
  rxMax : Nat
  /-- `DATA_MAX` (R14). -/
  dataMax : Nat
  /-- `CTR_W` (R13). -/
  ctrW : Nat
  /-- `CRC_TABLE` (R15). -/
  crcTable : CrcTable
  /-- `LINK_CFG` (R30); no rule reads which field is given. -/
  linkCfg : LinkCfg
  deriving DecidableEq, Repr

/-- What `LinkOpen` answers when it answers (R174). -/
inductive OpenAnswer where
  | ok
  | fail
  deriving DecidableEq, Repr, Inhabited

/-- What `LinkWrite` answers when it answers (R171). -/
inductive WriteAnswer where
  | ok
  | ioError
  deriving DecidableEq, Repr, Inhabited

/-- What a read window answers (R172): an I/O error, or the bytes the line offered while it was open. The window
keeps at most `RX_MAX` of them (R172: "the window stops at RX_MAX bytes"). -/
inductive ReadAnswer where
  | ioError
  | bytes (offered : List Byte)
  deriving DecidableEq, Repr, Inhabited

/-- DESIGN CHOICE (log 2). The free answer of `LinkOpen` at draw n; `none` is "no answer" (R174, D44). -/
opaque Config.openAnswer : Nat → Option OpenAnswer

/-- DESIGN CHOICE (log 2). The free answer of `LinkWrite` at draw n; `none` is "no answer" (R171, D23). -/
opaque Config.writeAnswer : Nat → Option WriteAnswer

/-- DESIGN CHOICE (log 2). The free answer of the read window at draw n; a window always ends (R175 (a)). -/
opaque Config.readAnswer : Nat → ReadAnswer

/-- DESIGN CHOICE (log 2). The free choice among the waiting ports at draw n (R154: "choose any q ∈ W"). -/
opaque Config.grantChoice : Nat → Nat

end Sys2Proof
end

