-- ==== Sys2Proof/Machine/Defaults.lean ====
section
/-! DEFINITION. The constants of the block (spec/00_scope.md R8, R11, R12, R100; spec/10_state.md R31) and the spec's
default values of the parameters (R9, R10, R13, R14, R101). -/

namespace Sys2Proof.Machine

/-- `MAX_ATTEMPTS` = 5, the number of attempts in total (R8, C3). -/
def maxAttempts : Nat := 5

/-- The longest payload of a write-field request (R76, R126). -/
def payloadMax : Nat := 245

/-- `MASTER_TX`: the source of every request and one accepted destination of a reply (R12, R41). -/
def masterTx : Byte := 129

/-- The other accepted destination of a reply, never sent (R12, R41). -/
def masterAlt : Byte := 160

/-- Both bytes of the seed (R100). -/
def seedByte : Byte := 0xFF

/-- The line rate in baud (R31); no rule's value depends on it (R245). -/
def lineBaud : Nat := 4800

/-- Data bits of a character (R31). -/
def lineDataBits : Nat := 8

/-- Stop bits of a character (R31); there is no parity bit. -/
def lineStopBits : Nat := 1

/-- PRESUMED (log 9): the default `CRC_TABLE` of R101, which the spec itself supplies from general knowledge. -/
def defaultCrcTable : CrcTable where
  hi := #v[0x00, 0x10, 0x20, 0x30, 0x40, 0x50, 0x60, 0x70, 0x81, 0x91, 0xA1, 0xB1, 0xC1, 0xD1, 0xE1, 0xF1]
  lo := #v[0x00, 0x21, 0x42, 0x63, 0x84, 0xA5, 0xC6, 0xE7, 0x08, 0x29, 0x4A, 0x6B, 0x8C, 0xAD, 0xCE, 0xEF]

/-- DESIGN CHOICE (log 10): a `LINK_CFG` with exactly one field, as R30 demands; no rule reads it. -/
def defaultLinkCfg : LinkCfg := { bridge := none, device := some "link" }

/-- The spec's default parameters (R9, R10, R13, R14, R15; log 8). -/
def defaultParams : Params where
  nPorts := 32
  nPorts_pos := by decide
  rxMax := 159
  dataMax := 255
  ctrW := 32
  crcTable := defaultCrcTable
  linkCfg := defaultLinkCfg

/-- The number of statistics counters: 32 addresses, 2 directions, 5 counters (R21, R27). -/
def statCount : Nat := 320

end Sys2Proof.Machine
end

