-- ==== Sys2Proof/Machine/Crc.lean ====
section
/-! DEFINITION. The pure checksum functions (spec/40_crc.md R100 to R108), for any tables, and the two formulations the
spec cross-checks the default tables with (R106, R107). -/

namespace Sys2Proof.Machine

/-- The accumulator `(hi, lo)` (R100). -/
structure Acc where
  hi : Byte
  lo : Byte
  deriving DecidableEq, Repr

/-- The seed (R100). -/
def Acc.seed : Acc := ⟨seedByte, seedByte⟩

/-- `LookupHi[t]` (R101). -/
def lookupHi (tbl : CrcTable) (t : BitVec 4) : Byte := tbl.hi[t.toNat]

/-- `LookupLo[t]` (R101). -/
def lookupLo (tbl : CrcTable) (t : BitVec 4) : Byte := tbl.lo[t.toNat]

/-- The nibble step (R102). -/
def nibbleStep (tbl : CrcTable) (acc : Acc) (n : BitVec 4) : Acc :=
  let t : BitVec 4 := (acc.hi >>> 4).setWidth 4 ^^^ n
  let hi1 : Byte := (acc.hi <<< 4) ||| (acc.lo >>> 4)
  let lo1 : Byte := acc.lo <<< 4
  ⟨hi1 ^^^ lookupHi tbl t, lo1 ^^^ lookupLo tbl t⟩

/-- The byte update: high nibble, then low nibble (R103). -/
def crcUpdate (tbl : CrcTable) (acc : Acc) (b : Byte) : Acc :=
  nibbleStep tbl (nibbleStep tbl acc (b.extractLsb' 4 4)) (b.extractLsb' 0 4)

/-- The finish: low byte first (R104). -/
def crcFinish (acc : Acc) : List Byte := [acc.lo, acc.hi]

/-- The accumulator after absorbing a byte list from the seed (R108). -/
def crcFold (tbl : CrcTable) (bytes : List Byte) : Acc := bytes.foldl (crcUpdate tbl) Acc.seed

/-- The checksum of a byte list, `[lo, hi]` (R108). -/
def crc16 (tbl : CrcTable) (bytes : List Byte) : List Byte := crcFinish (crcFold tbl bytes)

/-- One step of the bitwise CRC register with polynomial 0x1021 (R106, R107). -/
def polyStep (r : Half) : Half := if r.getLsbD 15 then (r <<< 1) ^^^ 0x1021 else r <<< 1

/-- `G(t)` of R107: the 16-bit table entry generated from the polynomial. -/
def tableEntry (t : BitVec 4) : Half := polyStep (polyStep (polyStep (polyStep (t.setWidth 16 <<< 12))))

/-- One byte of the bitwise CRC-16, most significant bit first (R106). -/
def crcBitwiseByte (r : Half) (b : Byte) : Half :=
  polyStep (polyStep (polyStep (polyStep (polyStep (polyStep (polyStep (polyStep (r ^^^ (b.setWidth 16 <<< 8)))))))))

/-- The bitwise CRC-16 of R106: polynomial 0x1021, initial value 0xFFFF, no reflection, no final exclusive-or. -/
def crcBitwise (bytes : List Byte) : Half := bytes.foldl crcBitwiseByte 0xFFFF

end Sys2Proof.Machine
end

