-- ==== Sys2Proof/Machine/State.lean ====
section
/-! DEFINITION. The state of one instance (spec/10_state.md R21: exactly these elements), the model's own fields that
stand for its environment and its interface, the reasons a step can stop, and the state after reset (R231). -/

namespace Sys2Proof.Machine

/-- `PORT_STATE` (R21). -/
inductive PortState where
  | idle
  | waiting
  | active
  deriving DecidableEq, Repr

/-- `T_STATE` (R21). -/
inductive TState where
  | tInit
  | tIdle
  | tSend
  | tRecv
  | tCheck
  | tBackoff
  | tReconnect
  deriving DecidableEq, Repr

/-- `LINK_STATE` (R21, R29). -/
inductive LinkState where
  | opened
  | closed
  deriving DecidableEq, Repr

/-- One port's registers (R33): `PORT_STATE`, `PORT_CMD`, `CRC_HI`, `CRC_LO`. -/
structure Port where
  state : PortState
  cmd : Command
  crcHi : Byte
  crcLo : Byte
  deriving DecidableEq, Repr

/-- The response codes by name (R71); their 8-bit values are `RespCode.byte` of Machine/Flags.lean. -/
inductive RespCode where
  | ok
  | hardFailure
  | noData
  | checksum
  | protocol
  | badOperand
  | illegalCmd
  deriving DecidableEq, Repr

/-- A response as delivered (R70): the port, the code, the data bytes, the 8-bit count. -/
structure Response where
  port : Nat
  code : RespCode
  data : List Byte
  count : Byte
  deriving DecidableEq, Repr

/-- One interaction with the link (R166, R171 to R174). `owner` is the port whose transaction made it; the open of
T_INIT has none. `received` is what the read window collected. -/
inductive LinkAccess where
  | write (owner : Nat) (frame : List Byte) (answer : WriteAnswer)
  | received (owner : Nat) (window : List Byte)
  | readError (owner : Nat)
  | close (owner : Nat)
  | opening (owner : Option Nat) (answer : OpenAnswer)
  deriving DecidableEq, Repr

/-- A move of one agent (R150), with what the environment chose for it. DESIGN CHOICE (log 1). -/
inductive Event where
  /-- The host delivers a command to port p (R153). -/
  | deliver (p : Nat) (c : Command)
  /-- `LinkOpen` is answered: the T_INIT open (R151) or a reconnect (R162). -/
  | linkOpen (answer : OpenAnswer)
  /-- The transport grants the lock to waiting port q (R154). -/
  | grant (q : Nat)
  /-- The transport finds the link closed in T_SEND (R155). -/
  | sendClosed
  /-- `LinkWrite` is answered (R156). -/
  | linkWrite (answer : WriteAnswer)
  /-- The read window ends (R157). -/
  | linkRead (answer : ReadAnswer)
  /-- The transport checks the collected reply (R158). -/
  | check
  /-- The backoff timer expires (R161). -/
  | backoffEnd
  /-- The block-wide reset (R230). -/
  | reset
  deriving DecidableEq, Repr

/-- The state. The first group is R21's table, element by element; `params` holds what the instance was constructed
with (not state, R21; no step changes it); the last group is the MODEL's own (log 1, 4, 5, 6). -/
structure State where
  /-- `PORT_STATE[p]`, `PORT_CMD[p]`, `CRC_HI[p]`, `CRC_LO[p]` for p = 0, 1, ... (R21, R33). -/
  ports : List Port
  /-- `LOCK_OWNER` (R28). -/
  lockOwner : Option Nat
  /-- `T_STATE` (R24). -/
  tState : TState
  /-- `ATTEMPT` (R24). -/
  attempt : Nat
  /-- `RXBUF` (R35). -/
  rxbuf : List Byte
  /-- `LINK_STATE` (R29). -/
  linkState : LinkState
  /-- `STATS[a][d][c]` at index `statIndex a d c` (R27). -/
  stats : List Nat
  /-- The parameters of the instance (R8 to R15, R30); log 8. -/
  params : Params
  /-- MODEL: the port whose command is being accepted; log 4. -/
  issuer : Nat
  /-- MODEL: what the environment still offers; log 1. -/
  inputs : List Event
  /-- MODEL: how many free values have been drawn; log 6. -/
  draws : Nat
  /-- MODEL: the responses delivered so far, newest first; log 5. -/
  responses : List Response
  /-- MODEL: the link interactions so far, newest first; log 5. -/
  linkLog : List LinkAccess
  deriving DecidableEq, Repr

/-- Why a step stops with a fault. -/
inductive Fault where
  /-- Raised by a meaning asked to run for a port number that is not in 0..N_PORTS-1, a port the spec says does not
  exist (R33). Safe: `step` never raises it, since no delivery to such a port can happen (log 11). -/
  | noSuchPort
  deriving DecidableEq, Repr

/-- Why an instruction has no meaning in the model. -/
inductive Refusal where
  /-- Raised by an arm of `exec` whose instruction has no meaning yet; no arm raises it now. Safe. -/
  | notModelled (mnemonic : String)
  deriving DecidableEq, Repr

/-- A port right after reset (R231). `PORT_CMD` is unspecified there: DESIGN CHOICE (log 7) word 0 and no data. -/
def Port.reset : Port := { state := .idle, cmd := { word := 0, data := [] }, crcHi := seedByte, crcLo := seedByte }

/-- The instance with these parameters right after reset, in an environment that has done and offers nothing (R231). -/
def State.resetWith (ps : Params) : State where
  ports := List.replicate ps.nPorts Port.reset
  lockOwner := none
  tState := .tInit
  attempt := 0
  rxbuf := []
  linkState := .closed
  stats := List.replicate statCount 0
  params := ps
  issuer := 0
  inputs := []
  draws := 0
  responses := []
  linkLog := []

/-- The machine right after reset, with the spec's default parameters (R231, log 3, log 8). -/
def State.reset : State := State.resetWith defaultParams

end Sys2Proof.Machine
end

