-- ==== Sys2Proof/Machine/Ops.lean ====
section
/-! DEFINITION. The named operations over the state: the ports, the statistics counters, responses (spec/30_encoding.md
R70) and the release of the lock (spec/42_transport.md R165). The block takes no exception and returns from none
(spec/60_exceptions.md R209, R211, R212): `State.respond` is what every error ends in instead. -/

namespace Sys2Proof.Machine

/-- `lo8(v)` of a 16-bit value (R19). -/
def lo8 (v : Half) : Byte := v.extractLsb' 0 8

/-- `hi8(v)` of a 16-bit value (R19). -/
def hi8 (v : Half) : Byte := v.extractLsb' 8 8

/-- The n low bytes of v, little-endian (R44, R180). -/
def leBytes : Nat → Nat → List Byte
  | 0, _ => []
  | n + 1, v => BitVec.ofNat 8 v :: leBytes n (v / 256)

/-- `L[i..j)`: the bytes with index i ≤ k < j, none if j ≤ i (R19). -/
def slice (bytes : List Byte) (i j : Nat) : List Byte := (bytes.take j).drop i

/-- `le16(L, i) = L[i] | (L[i+1] << 8)` (R19); a byte beyond the end counts 0, and no rule reads one (R130 step 7). -/
def le16 (bytes : List Byte) (i : Nat) : Nat := (bytes.getD i 0).toNat + 256 * (bytes.getD (i + 1) 0).toNat

/-- Write port p's registers (R33); the other ports keep theirs. -/
def State.setPort (s : State) (p : Nat) (x : Port) : State := { s with ports := s.ports.set p x }

/-- Change port p's registers by g, nothing if there is no port p. -/
def State.mapPort (s : State) (p : Nat) (g : Port → Port) : State :=
  match s.ports[p]? with
  | some x => s.setPort p (g x)
  | none => s

/-- The accumulator of a port (R26). -/
def Port.acc (x : Port) : Acc := ⟨x.crcHi, x.crcLo⟩

/-- Write the accumulator of a port (R26). -/
def Port.setAcc (x : Port) (acc : Acc) : Port := { x with crcHi := acc.hi, crcLo := acc.lo }

/-- The index value of a direction (R27). -/
def dirIndex : Dir → Nat
  | .read => 0
  | .write => 1

/-- The index value of a counter (R27). -/
def ctrIndex : Counter → Nat
  | .txn => 0
  | .csum => 1
  | .nodata => 2
  | .proto => 3
  | .hard => 4

/-- The place of `STATS[a][d][c]` in the counter list, none for an address outside 1..32 (R27; log 15). -/
def statIndex (a : Nat) (d : Dir) (c : Counter) : Option Nat :=
  if 1 ≤ a ∧ a ≤ 32 then some (((a - 1) * 2 + dirIndex d) * 5 + ctrIndex c) else none

/-- Read `STATS[a][d][c]` (R27). -/
def State.stat (s : State) (a : Nat) (d : Dir) (c : Counter) : Nat :=
  match statIndex a d c with
  | some i => s.stats.getD i 0
  | none => 0

/-- `sat_inc` of a w-bit counter (R13, R20). -/
def satInc (w v : Nat) : Nat := if v < 2 ^ w - 1 then v + 1 else v

/-- `STATS[a][d][c] <- sat_inc(STATS[a][d][c])` (R159, R163, R164). -/
def State.incStat (s : State) (a : Nat) (d : Dir) (c : Counter) : State :=
  match statIndex a d c with
  | some i => { s with stats := s.stats.set i (satInc s.params.ctrW (s.stats.getD i 0)) }
  | none => s

/-- `respond(p, code, data, count)`: deliver a response to port p (R20, R70). -/
def State.respond (s : State) (p : Nat) (code : RespCode) (data : List Byte) (count : Byte) : State :=
  { s with responses := { port := p, code := code, data := data, count := count } :: s.responses }

/-- Record an interaction with the link (log 5). -/
def State.logLink (s : State) (x : LinkAccess) : State := { s with linkLog := x :: s.linkLog }

/-- The release (R165): port p to IDLE, the lock free, `ATTEMPT` 0, the transport to T_IDLE. -/
def State.release (s : State) (p : Nat) : State :=
  { s.mapPort p (fun x => { x with state := .idle }) with lockOwner := none, attempt := 0, tState := .tIdle }

/-- Run k on the registers of the issuing port; a port number outside 0..N_PORTS-1 is a fault (log 11). -/
def onIssuer (s : State) (k : Port → Host.Outcome State Fault Refusal) : Host.Outcome State Fault Refusal :=
  match s.ports[s.issuer]? with
  | some x => k x
  | none => .fault .noSuchPort

/-- Answer the issuing port and complete in this step (R153: "perform the command's rule ... and respond"). -/
def State.answer (s : State) (code : RespCode) (data : List Byte) : Host.Outcome State Fault Refusal :=
  .next (s.respond s.issuer code data 0)

/-- The block-wide reset (R230, R231, R233): every element of R21 takes its reset value, every command in flight is
dropped without a response. What the environment has seen and still offers is not the block's state (log 12). -/
def State.resetBlock (s : State) : State :=
  { State.resetWith s.params with
    issuer := s.issuer, inputs := s.inputs, draws := s.draws, responses := s.responses, linkLog := s.linkLog }

end Sys2Proof.Machine
end

