-- ==== Sys2Proof/Machine/Operands.lean ====
section
/-! DEFINITION. The operand checks of acceptance (spec/30_encoding.md R66, R68, R74) and the operands the transport
reads back from `PORT_CMD` (spec/42_transport.md section 4). -/

namespace Sys2Proof.Machine

/-- `ADDR` in 1..32 (R11, R74). -/
def addrOk (a : Byte) : Bool := decide (1 ≤ a.toNat) && decide (a.toNat ≤ 32)

/-- `len(data) ≤ DATA_MAX` (R66). -/
def dataOk (ps : Params) (data : List Byte) : Bool := decide (data.length ≤ ps.dataMax)

/-- The operand check of FRM.READ (R74, R125). -/
def frmReadOk (a : Byte) : Bool := addrOk a

/-- The operand check of FRM.WRITE (R74, R126). -/
def frmWriteOk (ps : Params) (a : Byte) (payload : List Byte) : Bool :=
  dataOk ps payload && addrOk a && decide (payload.length ≤ payloadMax)

/-- The operand check of FRM.VERIFY (R74, R135): any address, any function. -/
def frmVerifyOk (ps : Params) (reply : List Byte) : Bool := dataOk ps reply

/-- The operand check of BUS.EXEC (R74, R152). -/
def busExecOk (ps : Params) (a : Byte) (frame : List Byte) : Bool :=
  dataOk ps frame && addrOk a && decide (1 ≤ frame.length)

/-- The counter a select names; 5..7 name none (R68). -/
def counterOf (c : BitVec 3) : Option Counter :=
  match c.toNat with
  | 0 => some .txn
  | 1 => some .csum
  | 2 => some .nodata
  | 3 => some .proto
  | 4 => some .hard
  | _ => none

/-- The counter STAT.READ reads if its operands are in range (R74, R180). -/
def statReadCounter (a : Byte) (c : BitVec 3) : Option Counter := if addrOk a then counterOf c else none

/-- The transaction that holds the bus: `p = LOCK_OWNER` and the `ADDR`, `F` and data of `PORT_CMD[p]`. -/
structure Txn where
  p : Nat
  a : Byte
  f : Dir
  frame : List Byte
  deriving DecidableEq, Repr

/-- Read the transaction from the state; none if no port owns the lock. -/
def State.txn? (s : State) : Option Txn :=
  match s.lockOwner with
  | none => none
  | some p =>
    match s.ports[p]? with
    | none => none
    | some x => some { p := p, a := addrField x.cmd.word, f := dirField x.cmd.word, frame := x.cmd.data }

end Sys2Proof.Machine
end

