-- ==== Sys2Proof/Machine/Checksum.lean ====
section
/-! DEFINITION. The checksum family (spec/40_crc.md R110 to R112): the three commands on the issuing port's own
accumulator. They complete in the step that accepts them and never take the lock. -/

namespace Sys2Proof.Machine

/-- `CRC.INIT` (R110): the accumulator takes the seed. -/
def execCrcInit (s : State) : Host.Outcome State Fault Refusal :=
  onIssuer s fun x => (s.setPort s.issuer (x.setAcc Acc.seed)).answer .ok []

/-- `CRC.UPDATE imm8` (R111): the accumulator absorbs the byte. -/
def execCrcUpdate (imm8 : Byte) (s : State) : Host.Outcome State Fault Refusal :=
  onIssuer s fun x => (s.setPort s.issuer (x.setAcc (crcUpdate s.params.crcTable x.acc imm8))).answer .ok []

/-- `CRC.FINISH` (R112): the trailer bytes, low byte first; the accumulator is not changed. -/
def execCrcFinish (s : State) : Host.Outcome State Fault Refusal :=
  onIssuer s fun x => s.answer .ok (crcFinish x.acc)

end Sys2Proof.Machine
end

