-- ==== Sys2Proof/Machine/Flags.lean ====
section
/-! DEFINITION. The block has no status flags or condition codes (spec/10_state.md R25): a command's outcome is its
response code. The codes' values (R71), the code of each result of `verify` (R135), and the counter each soft error
is counted in (R159). -/

namespace Sys2Proof.Machine

/-- The 8-bit value of a response code (R71). -/
def RespCode.byte : RespCode → Byte
  | .ok => 0x00
  | .hardFailure => 0x01
  | .noData => 0x02
  | .checksum => 0x03
  | .protocol => 0x04
  | .badOperand => 0x05
  | .illegalCmd => 0x06

/-- The errors of `verify` (R130), the soft errors (R200 to R203). -/
inductive VerifyError where
  | noDataReceived
  | checksumMismatch
  | protocolViolation
  deriving DecidableEq, Repr

/-- The result of `verify` (R130): `Ok(payload)` or `Err(e)`. -/
inductive VerifyResult where
  | ok (payload : List Byte)
  | err (e : VerifyError)
  deriving DecidableEq, Repr

/-- The response code of a soft error (R135, R200). -/
def VerifyError.code : VerifyError → RespCode
  | .noDataReceived => .noData
  | .checksumMismatch => .checksum
  | .protocolViolation => .protocol

/-- `bucket(e)` (R159). -/
def VerifyError.bucket : VerifyError → Counter
  | .noDataReceived => .nodata
  | .checksumMismatch => .csum
  | .protocolViolation => .proto

end Sys2Proof.Machine
end

