-- ==== Sys2Proof/Machine/Codec.lean ====
section
/-! DEFINITION. The frame codec (spec/41_codec.md): the two request builders (R120, R121), the reply checker (R130) and
the three commands (R125, R126, R135). -/

namespace Sys2Proof.Machine

/-- The function code on the wire (R78). -/
def functionByte : Dir → Byte
  | .read => 0
  | .write => 1

/-- `H ++ crc16(H)` (R120, R121, R122). -/
def sealFrame (tbl : CrcTable) (h : List Byte) : List Byte := h ++ crc16 tbl h

/-- `buildReadAll(a)` (R75, R120). -/
def buildReadAll (tbl : CrcTable) (a : Byte) : List Byte := sealFrame tbl [a, 10, masterTx, 0, 0, 0, 0xFF, 0xFF]

/-- The header of `buildWrite(a, off, P)` with the payload's length k (R76, R121). -/
def writeHeader (a : Byte) (off : Half) (k : Nat) : List Byte :=
  [a, BitVec.ofNat 8 (10 + k), masterTx, 1, lo8 off, hi8 off, lo8 (BitVec.ofNat 16 k), hi8 (BitVec.ofNat 16 k)]

/-- `buildWrite(a, off, P)` (R76, R121). -/
def buildWrite (tbl : CrcTable) (a : Byte) (off : Half) (payload : List Byte) : List Byte :=
  sealFrame tbl (writeHeader a off payload.length ++ payload)

/-- `verify(a, f, L)`: the steps of R130 in order, the first that fails giving the result (R131). An absent byte
fails the step that reads it (R132). -/
def verify (tbl : CrcTable) (a : Byte) (f : Dir) (reply : List Byte) : VerifyResult :=
  let n := reply.length
  if n < 3 then .err .noDataReceived
  else if crc16 tbl (reply.take (n - 2)) ≠ reply.drop (n - 2) then .err .checksumMismatch
  else if reply[0]? ≠ some masterTx ∧ reply[0]? ≠ some masterAlt then .err .protocolViolation
  else if reply[3]? ≠ some a then .err .protocolViolation
  else if reply[4]? ≠ some 0 ∧ reply[4]? ≠ some 1 then .err .protocolViolation
  else if reply[4]? ≠ some (functionByte f) then .err .protocolViolation
  else if reply[4]? = some 1 ∧ le16 reply 1 ≠ 7 then .err .protocolViolation
  else if le16 reply 1 ≠ n then .err .protocolViolation
  else if reply[4]? = some 0 then .ok (slice reply 9 (n - 2))
  else .ok []

/-- `FRM.READ addr` (R125). -/
def execFrmRead (addr : Byte) (s : State) : Host.Outcome State Fault Refusal :=
  onIssuer s fun _ =>
    if frmReadOk addr then s.answer .ok (buildReadAll s.params.crcTable addr) else s.answer .badOperand []

/-- `FRM.WRITE addr, off16, payload` (R126). -/
def execFrmWrite (addr : Byte) (off16 : Half) (payload : List Byte) (s : State) : Host.Outcome State Fault Refusal :=
  onIssuer s fun _ =>
    if frmWriteOk s.params addr payload then s.answer .ok (buildWrite s.params.crcTable addr off16 payload)
    else s.answer .badOperand []

/-- `FRM.VERIFY addr, f, reply` (R135). No counter changes. -/
def execFrmVerify (addr : Byte) (f : Dir) (reply : List Byte) (s : State) : Host.Outcome State Fault Refusal :=
  onIssuer s fun _ =>
    if frmVerifyOk s.params reply then
      match verify s.params.crcTable addr f reply with
      | .ok payload => s.answer .ok payload
      | .err e => s.answer e.code []
    else s.answer .badOperand []

end Sys2Proof.Machine
end

