-- ==== Sys2Proof/Machine/Statistics.lean ====
section
/-! DEFINITION. The statistics family (spec/42_transport.md R180): reading one counter. -/

namespace Sys2Proof.Machine

/-- How many bytes STAT.READ returns: CTR_W/8 (R180; log 14). -/
def statBytes (ps : Params) : Nat := ps.ctrW / 8

/-- `STAT.READ addr, d, c` (R180). No state changes. -/
def execStatRead (addr : Byte) (d : Dir) (c : BitVec 3) (s : State) : Host.Outcome State Fault Refusal :=
  onIssuer s fun _ =>
    match statReadCounter addr c with
    | some ctr => s.answer .ok (leBytes (statBytes s.params) (s.stat addr.toNat d ctr))
    | none => s.answer .badOperand []

end Sys2Proof.Machine
end

