-- ==== Sys2Proof/Machine/Transport.lean ====
section
/-! DEFINITION. The transport (spec/42_transport.md): the acceptance of BUS.EXEC (R152, R153) and every transition of
the retry state machine (R151, R154 to R165). Each transition is a function of the state and of what the environment
chose; when it can happen is `State.enabled` of Machine/Schedule.lean. -/

namespace Sys2Proof.Machine

/-- `BUS.EXEC addr, f, frame` at acceptance (R152, R153): `PORT_CMD` takes the command, the port waits for the lock. The
transaction itself is the transitions below. -/
def execBusExec (addr : Byte) (f : Dir) (frame : List Byte) (s : State) : Host.Outcome State Fault Refusal :=
  onIssuer s fun x =>
    if busExecOk s.params addr frame then
      .next (s.setPort s.issuer { x with state := .waiting, cmd := encode (.busExec addr f frame) })
    else s.answer .badOperand []

/-- The link state after an open (R151, R162). -/
def linkAfterOpen : OpenAnswer → LinkState
  | .ok => .opened
  | .fail => .closed

/-- T_INIT (R151). -/
def State.initOpen (s : State) (answer : OpenAnswer) : State :=
  { s.logLink (.opening none answer) with linkState := linkAfterOpen answer, tState := .tIdle }

/-- Grant to port q (R154). -/
def State.grantTo (s : State) (q : Nat) : State :=
  { s.mapPort q (fun x => { x with state := .active }) with lockOwner := some q, attempt := 0, tState := .tSend }

/-- Send on a closed link (R155). -/
def State.sendOnClosed (s : State) : State := { s with tState := .tReconnect }

/-- Send (R156). -/
def State.send (s : State) (t : Txn) (answer : WriteAnswer) : State :=
  match answer with
  | .ok => { s.logLink (.write t.p t.frame .ok) with tState := .tRecv }
  | .ioError => { s.logLink (.write t.p t.frame .ioError) with tState := .tReconnect }

/-- Receive (R157): the window keeps at most `RX_MAX` bytes (R172; log 13); an I/O error leaves `RXBUF` as it is. -/
def State.receive (s : State) (t : Txn) (answer : ReadAnswer) : State :=
  match answer with
  | .bytes offered =>
    { s.logLink (.received t.p (offered.take s.params.rxMax)) with
      rxbuf := offered.take s.params.rxMax, tState := .tCheck }
  | .ioError => { s.logLink (.readError t.p) with tState := .tReconnect }

/-- The 8-bit count field of a response (R70). -/
def countByte (n : Nat) : Byte := BitVec.ofNat 8 n

/-- `complete_ok(P)` (R160, R164, R165). -/
def State.completeOk (s : State) (t : Txn) (payload : List Byte) : State :=
  ((s.incStat t.a.toNat t.f .txn).respond t.p .ok payload (countByte s.attempt)).release t.p

/-- `hard_fail` (R163, R164, R165). -/
def State.hardFail (s : State) (t : Txn) : State :=
  ((((s.incStat t.a.toNat t.f .hard).incStat t.a.toNat t.f .txn)).respond t.p .hardFailure []
    (countByte maxAttempts)).release t.p

/-- A soft error (R158, R159): its counter, one more failed attempt, then the backoff. -/
def State.softError (s : State) (t : Txn) (e : VerifyError) : State :=
  { s.incStat t.a.toNat t.f e.bucket with attempt := s.attempt + 1, tState := .tBackoff }

/-- Check (R158). -/
def State.checkReply (s : State) (t : Txn) : State :=
  match verify s.params.crcTable t.a t.f s.rxbuf with
  | .ok payload => s.completeOk t payload
  | .err e => s.softError t e

/-- After a failed attempt is over: the next attempt, or the hard failure (R161, R162). -/
def State.nextAttempt (s : State) (t : Txn) : State :=
  if s.attempt < maxAttempts then { s with tState := .tSend } else s.hardFail t

/-- Backoff end (R161). -/
def State.backoffOver (s : State) (t : Txn) : State := s.nextAttempt t

/-- Reconnect (R162): close, open, one more failed attempt; no counter changes (R182). -/
def State.reconnect (s : State) (t : Txn) (answer : OpenAnswer) : State :=
  ({ (s.logLink (.close t.p)).logLink (.opening (some t.p) answer) with
      linkState := linkAfterOpen answer, attempt := s.attempt + 1 } : State).nextAttempt t

end Sys2Proof.Machine
end

