-- ==== Sys2Proof/Machine/Dispatch.lean ====
section
/-! DEFINITION. One arm per command (spec/30_encoding.md R69): the meaning of each, run for the port `issuer`. -/

namespace Sys2Proof.Machine

-- The arms stand in the order of spec/opcode_table.json.
def exec (i : Instr) (s : State) : Host.Outcome State Fault Refusal :=
  match i with
  | .crcInit => Sys2Proof.Machine.execCrcInit s
  | .crcUpdate imm8 => Sys2Proof.Machine.execCrcUpdate imm8 s
  | .crcFinish => Sys2Proof.Machine.execCrcFinish s
  | .frmRead addr => Sys2Proof.Machine.execFrmRead addr s
  | .frmWrite addr off16 payload => Sys2Proof.Machine.execFrmWrite addr off16 payload s
  | .frmVerify addr f reply => Sys2Proof.Machine.execFrmVerify addr f reply s
  | .busExec addr f frame => Sys2Proof.Machine.execBusExec addr f frame s
  | .statRead addr d c => Sys2Proof.Machine.execStatRead addr d c s

end Sys2Proof.Machine
end

