-- ==== Sys2Proof/Machine/Schedule.lean ====
section
/-! DEFINITION. Which agent moves next and what its move does (spec/42_transport.md R150; log 1, 2). Command acceptance is
R153; the transport's transitions are Machine/Transport.lean's. -/

namespace Sys2Proof.Machine

/-- Acceptance (R153): decode, answer ILLEGAL_CMD if that fails (R72, R73), else run the command for port p. -/
def accept (p : Nat) (c : Command) (s : State) : Host.Outcome State Fault Refusal :=
  match decode c with
  | .error _ => .next (({ s with issuer := p } : State).respond p .illegalCmd [] 0)
  | .ok i => exec i { s with issuer := p }

/-- `PORT_STATE[p]`, none for a port that does not exist (R33). -/
def State.portState? (s : State) (p : Nat) : Option PortState :=
  match s.ports[p]? with
  | some x => some x.state
  | none => none

/-- `W`: the waiting ports in rising order (R154). -/
def State.waiting (s : State) : List Nat :=
  (List.range s.ports.length).filter fun q => decide (s.portState? q = some .waiting)

/-- Whether a move can happen now: the "Enabled when" of R151 and R154 to R162, and R61 for a delivery. -/
def State.enabled (s : State) : Event → Bool
  | .deliver p _ => decide (s.portState? p = some .idle)
  | .linkOpen _ => decide (s.tState = .tInit) || (decide (s.tState = .tReconnect) && s.txn?.isSome)
  | .grant q => decide (s.tState = .tIdle) && decide (s.lockOwner = none) && decide (s.portState? q = some .waiting)
  | .sendClosed => decide (s.tState = .tSend) && decide (s.linkState = .closed)
  | .linkWrite _ => decide (s.tState = .tSend) && decide (s.linkState = .opened) && s.txn?.isSome
  | .linkRead _ => decide (s.tState = .tRecv) && s.txn?.isSome
  | .check => decide (s.tState = .tCheck) && s.txn?.isSome
  | .backoffEnd => decide (s.tState = .tBackoff) && s.txn?.isSome
  | .reset => true

/-- Run a transition of the transaction that holds the bus; nothing if there is none (log 15). -/
def State.onTxn (s : State) (k : Txn → State) : State :=
  match s.txn? with
  | some t => k t
  | none => s

/-- What a move does, when it can happen. -/
def perform (e : Event) (s : State) : Host.Outcome State Fault Refusal :=
  match e with
  | .deliver p c => accept p c s
  | .linkOpen answer =>
    if s.tState = .tInit then .next (s.initOpen answer) else .next (s.onTxn fun t => s.reconnect t answer)
  | .grant q => .next (s.grantTo q)
  | .sendClosed => .next s.sendOnClosed
  | .linkWrite answer => .next (s.onTxn fun t => s.send t answer)
  | .linkRead answer => .next (s.onTxn fun t => s.receive t answer)
  | .check => .next (s.onTxn fun t => s.checkReply t)
  | .backoffEnd => .next (s.onTxn fun t => s.backoffOver t)
  | .reset => .next s.resetBlock

/-- The first listed event that can happen now, and the list without it. An event that cannot happen yet stays: a
delivery to a busy port is held, not lost (R61, R237; log 1). -/
def firstEnabled (s : State) : List Event → Option (Event × List Event)
  | [] => none
  | e :: rest =>
    if s.enabled e then some (e, rest)
    else
      match firstEnabled s rest with
      | some (x, others) => some (x, e :: others)
      | none => none

/-- The grant the transport makes on its own: a free choice among the waiting ports (R154; log 2). -/
def State.ownGrant (s : State) : Option Event :=
  match s.waiting with
  | [] => none
  | q :: qs => some (.grant ((q :: qs).getD (Config.grantChoice s.draws % (q :: qs).length) q))

/-- The move the transport makes when no listed event can happen: its own next transition, with free answers for what
the environment chooses (R150, R175; log 2). None when it is idle (R220) or the link gives no answer (R171, R174). -/
def State.ownMove (s : State) : Option Event :=
  match s.tState with
  | .tInit => (Config.openAnswer s.draws).map .linkOpen
  | .tReconnect => (Config.openAnswer s.draws).map .linkOpen
  | .tIdle => s.ownGrant
  | .tSend => if s.linkState = .closed then some .sendClosed else (Config.writeAnswer s.draws).map .linkWrite
  | .tRecv => some (.linkRead (Config.readAnswer s.draws))
  | .tCheck => some .check
  | .tBackoff => some .backoffEnd

/-- One atomic step of one agent (R52, R150). -/
def scheduleStep (s : State) : Host.Outcome State Fault Refusal :=
  match firstEnabled s s.inputs with
  | some (e, others) => perform e { s with inputs := others }
  | none =>
    match s.ownMove with
    | some e => if s.enabled e then perform e { s with draws := s.draws + 1 } else .next { s with draws := s.draws + 1 }
    | none => .next { s with draws := s.draws + 1 }

/-- The port a table word is delivered to: the first IDLE port, port 0 if there is none (log 3). -/
def State.freePort (s : State) : Nat :=
  ((List.range s.ports.length).find? fun p => decide (s.portState? p = some .idle)).getD 0

/-- Deliver c next, whatever else the environment offers: the delivery stands first in `inputs`, to a port that is made
IDLE if none is (log 3). -/
def State.deliverNext (s : State) (c : Command) : State :=
  { s.mapPort s.freePort (fun x => { x with state := .idle }) with inputs := .deliver s.freePort c :: s.inputs }

end Sys2Proof.Machine
end

