-- ==== Sys2Proof/Machine/Step.lean ====
section
/-! DEFINITION. The step of the machine, and the placing of one command where the next step takes it. -/

namespace Sys2Proof.Machine

/-- One step: one atomic move of one agent (R52, R150). -/
def step (s : State) : Host.Outcome State Fault Refusal := scheduleStep s

/-- The state whose very next step accepts the command with the table bits w (log 3). -/
def State.withFetchWord (s : State) (nbits w : Nat) : State := s.deliverNext (commandOfBits nbits w)

end Sys2Proof.Machine
end

