-- ==== Sys2Proof/Machine/Assembler.lean ====
section
/-! DEFINITION. The spec's assembler syntax (spec/30_encoding.md R81) and its pseudo-instructions (R82), one line at a
time. What R81 does not say of the text (blanks, letter case, numbers out of range) is log 18; that a host carries a
response's data into the next command (R82) is log 19. -/

namespace Sys2Proof.Machine

/-- A token of a line. -/
inductive Tok where
  | word (cs : List Char)
  | comma
  | colon
  | openBrace
  | closeBrace
  | bad (c : Char)
  deriving DecidableEq, Repr

/-- What a line asks a port to run (R81, R82). -/
inductive AsmItem where
  /-- one command -/
  | cmd (i : Instr)
  /-- BUS.EXEC with the data of the response to the command before it (READALL, WRITEFIELD) -/
  | execResponse (addr : Byte) (f : Dir)
  deriving DecidableEq, Repr

/-- An assembled line: the issuing port (0 if the line names none) and what it runs, in order. -/
structure AsmLine where
  port : Nat
  items : List AsmItem
  deriving DecidableEq, Repr

/-- The command an item stands for, after a response with this data (R82). -/
def AsmItem.command (lastData : List Byte) : AsmItem → Command
  | .cmd i => encode i
  | .execResponse a f => encode (.busExec a f lastData)

/-- A character of a mnemonic or a number. -/
def isWordChar (c : Char) : Bool := c.isAlphanum || c == '.'

/-- The token of a character that is neither blank nor part of a word. The braces are 123 and 125. -/
def charTok (c : Char) : Tok :=
  if c = ',' then .comma else if c = ':' then .colon
  else if c.toNat = 123 then .openBrace else if c.toNat = 125 then .closeBrace else .bad c

/-- A finished word before the other tokens. -/
def wordThen (w : List Char) (rest : List Tok) : List Tok := if w = [] then rest else .word w.reverse :: rest

/-- The tokens of a line up to its comment (R81: ";" to end of line); w is the word read so far, reversed. -/
def tokens : List Char → List Char → List Tok
  | w, [] => wordThen w []
  | w, c :: cs =>
    if c = ';' then wordThen w []
    else if isWordChar c then tokens (c :: w) cs
    else if c = ' ' then wordThen w (tokens [] cs)
    else wordThen w (charTok c :: tokens [] cs)

/-- The value of a digit in a base up to 16. -/
def digitVal (base : Nat) (c : Char) : Option Nat :=
  let v := if c.isDigit then c.toNat - 48 else if 97 ≤ c.toNat then c.toNat - 87 else c.toNat - 55
  if c.isAlphanum && decide (v < base) then some v else none

/-- The value of a run of digits after a prefix of value acc. -/
def digitsVal (base : Nat) : Nat → List Char → Option Nat
  | acc, [] => some acc
  | acc, c :: cs =>
    match digitVal base c with
    | some v => digitsVal base (base * acc + v) cs
    | none => none

/-- A number: decimal unless written with 0x (R81). -/
def parseNum : List Char → Option Nat
  | [] => none
  | '0' :: 'x' :: c :: cs => digitsVal 16 0 (c :: cs)
  | c :: cs => digitsVal 10 0 (c :: cs)

/-- A number of at most n bits. -/
def parseBits (n : Nat) (cs : List Char) : Option (BitVec n) :=
  match parseNum cs with
  | some v => if v < 2 ^ n then some (BitVec.ofNat n v) else none
  | none => none

/-- `f` and `d`: rd, wr, 0 or 1 (R81). -/
def parseDir (cs : List Char) : Option Dir :=
  if cs = "rd".toList then some .read else if cs = "wr".toList then some .write
  else
    match parseNum cs with
    | some 0 => some .read
    | some 1 => some .write
    | _ => none

/-- `c`: a name or a number of 3 bits (R81). -/
def parseCtr (cs : List Char) : Option (BitVec 3) :=
  if cs = "txn".toList then some 0 else if cs = "csum".toList then some 1
  else if cs = "nodata".toList then some 2 else if cs = "proto".toList then some 3
  else if cs = "hard".toList then some 4 else parseBits 3 cs

/-- The bytes of a data list after its opening brace. -/
def parseBytes : List Tok → Option (List Byte)
  | [.word w, .closeBrace] =>
    match parseBits 8 w with
    | some b => some [b]
    | none => none
  | .word w :: .comma :: rest =>
    match parseBits 8 w, parseBytes rest with
    | some b, some bs => some (b :: bs)
    | _, _ => none
  | _ => none

/-- A data list in braces. -/
def parseData : List Tok → Option (List Byte)
  | [.openBrace, .closeBrace] => some []
  | .openBrace :: rest => parseBytes rest
  | _ => none

/-- `addr, f, {data}` of a format AF command with the instruction to build. -/
def parseAF (mk : Byte → Dir → List Byte → Instr) : List Tok → Option (List AsmItem)
  | .word a :: .comma :: .word f :: .comma :: rest =>
    match parseBits 8 a, parseDir f, parseData rest with
    | some a, some f, some d => some [.cmd (mk a f d)]
    | _, _, _ => none
  | _ => none

/-- `addr, {frame}` of the pseudo-instructions BUS.EXEC.RD and BUS.EXEC.WR (R82). -/
def parseExec (f : Dir) : List Tok → Option (List AsmItem)
  | .word a :: .comma :: rest =>
    match parseBits 8 a, parseData rest with
    | some a, some d => some [.cmd (.busExec a f d)]
    | _, _ => none
  | _ => none

/-- `addr, off16, {payload}` of FRM.WRITE. -/
def parseWrite : List Tok → Option (List AsmItem)
  | .word a :: .comma :: .word o :: .comma :: rest =>
    match parseBits 8 a, parseBits 16 o, parseData rest with
    | some a, some o, some d => some [.cmd (.frmWrite a o d)]
    | _, _, _ => none
  | _ => none

/-- `addr, d, c` of STAT.READ. -/
def parseStat : List Tok → Option (List AsmItem)
  | [.word a, .comma, .word d, .comma, .word c] =>
    match parseBits 8 a, parseDir d, parseCtr c with
    | some a, some d, some c => some [.cmd (.statRead a d c)]
    | _, _, _ => none
  | _ => none

/-- `addr, off16, v` of WRITEFIELD (R82). -/
def parseField : List Tok → Option (List AsmItem)
  | [.word a, .comma, .word o, .comma, .word v] =>
    match parseBits 8 a, parseBits 16 o, parseBits 8 v with
    | some a, some o, some v => some [.cmd (.frmWrite a o [v]), .execResponse a .write]
    | _, _, _ => none
  | _ => none

/-- One operand, a byte. -/
def parseOne (mk : Byte → List AsmItem) : List Tok → Option (List AsmItem)
  | [.word w] => (parseBits 8 w).map mk
  | _ => none

/-- No operand. -/
def parseNone (i : Instr) : List Tok → Option (List AsmItem)
  | [] => some [.cmd i]
  | _ => none

/-- The expansion of `CRC.BYTES` (R82). -/
def crcBytes (bs : List Byte) : List AsmItem := .cmd .crcInit :: bs.map fun b => .cmd (.crcUpdate b)

/-- A mnemonic with its operands (R81), or a pseudo-instruction with its expansion (R82). -/
def parseOp (mn : List Char) (ops : List Tok) : Option (List AsmItem) :=
  if mn = "CRC.INIT".toList then parseNone .crcInit ops
  else if mn = "CRC.UPDATE".toList then parseOne (fun b => [.cmd (.crcUpdate b)]) ops
  else if mn = "CRC.FINISH".toList then parseNone .crcFinish ops
  else if mn = "FRM.READ".toList then parseOne (fun a => [.cmd (.frmRead a)]) ops
  else if mn = "FRM.WRITE".toList then parseWrite ops
  else if mn = "FRM.VERIFY".toList then parseAF .frmVerify ops
  else if mn = "BUS.EXEC".toList then parseAF .busExec ops
  else if mn = "STAT.READ".toList then parseStat ops
  else if mn = "CRC.BYTES".toList then (parseData ops).map crcBytes
  else if mn = "BUS.EXEC.RD".toList then parseExec .read ops
  else if mn = "BUS.EXEC.WR".toList then parseExec .write ops
  else if mn = "READALL".toList then parseOne (fun a => [.cmd (.frmRead a), .execResponse a .read]) ops
  else if mn = "WRITEFIELD".toList then parseField ops
  else none

/-- The line's commands for the port it names. -/
def parseFor (port : Nat) : List Tok → Option AsmLine
  | [] => some ⟨port, []⟩
  | .word mn :: ops => (parseOp mn ops).map (AsmLine.mk port)
  | _ => none

/-- Assemble one line (R81, R82); none if it is no line of the syntax. -/
def assembleLine (line : List Char) : Option AsmLine :=
  match tokens [] line with
  | .word n :: .colon :: rest =>
    match parseNum n with
    | some p => parseFor p rest
    | none => none
  | toks => parseFor 0 toks

end Sys2Proof.Machine
end

