-- ==== Sys2Proof/Machine/Construct.lean ====
section
/-! DEFINITION. Construction of an instance (spec/10_state.md R30, spec/60_exceptions.md R206, spec/70_reset_and_hazards.md
R230, R235): exactly one field of `LINK_CFG` must be given, otherwise there is no instance. -/

namespace Sys2Proof.Machine

/-- ConfigError (R206): `LINK_CFG` with both fields, or with neither. -/
inductive ConfigError where
  | linkCfg
  deriving DecidableEq, Repr

/-- Exactly one of the two fields is given (R30). -/
def linkCfgValid (cfg : LinkCfg) : Bool := cfg.bridge.isSome != cfg.device.isSome

/-- Construct an instance: the state right after reset (R230, R235), or a configuration error and no state (R206). -/
def construct (ps : Params) (cfg : LinkCfg) : Except ConfigError State :=
  if linkCfgValid cfg then .ok (State.resetWith { ps with linkCfg := cfg }) else .error .linkCfg

end Sys2Proof.Machine
end

