-- ==== Sys2Proof/Safety.lean ====
section
/-! DEFINITION. What claims about runs are stated in: the invariant every step keeps (spec/10_state.md R21, R22, R24;
spec/42_transport.md R167), the progress measure of a transaction (R175), and small readers of a state. -/

namespace Sys2Proof.Machine

/-- The sizes and ranges of R21: N_PORTS ports, 320 counters of CTR_W bits, at most RX_MAX bytes, ATTEMPT in range. -/
abbrev State.SizesOk (s : State) : Prop :=
  s.ports.length = s.params.nPorts ∧ s.stats.length = statCount ∧ (∀ v ∈ s.stats, v ≤ 2 ^ s.params.ctrW - 1) ∧
    s.rxbuf.length ≤ s.params.rxMax ∧ s.attempt ≤ maxAttempts

/-- Mutual exclusion (R167): a port is ACTIVE exactly if it is the one LOCK_OWNER names, and a lock is held exactly
while the transport is between a grant and a release. -/
abbrev State.LockOk (s : State) : Prop :=
  (s.lockOwner = none ↔ s.tState = .tInit ∨ s.tState = .tIdle) ∧
    (∀ p ∈ s.lockOwner, p < s.ports.length) ∧
    (∀ q < s.ports.length, s.portState? q = some .active ↔ s.lockOwner = some q)

/-- ATTEMPT where the transport stands (R154, R158, R161, R162, R165). -/
abbrev State.AttemptOk (s : State) : Prop :=
  (s.tState = .tInit ∨ s.tState = .tIdle → s.attempt = 0) ∧
    (s.tState = .tSend ∨ s.tState = .tRecv ∨ s.tState = .tCheck ∨ s.tState = .tReconnect → s.attempt < maxAttempts) ∧
    (s.tState = .tBackoff → 1 ≤ s.attempt)

/-- The link where the transport stands (R151, R155, R156). -/
abbrev State.LinkOk (s : State) : Prop :=
  (s.tState = .tInit → s.linkState = .closed) ∧
    (s.tState = .tRecv ∨ s.tState = .tCheck ∨ s.tState = .tBackoff → s.linkState = .opened)

/-- `PORT_CMD` of a port that is not IDLE is an accepted BUS.EXEC (R22, R153). -/
def commandIsExec (ps : Params) (c : Command) : Bool :=
  match decode c with
  | .ok (.busExec a _ frame) => busExecOk ps a frame
  | _ => false

/-- `PORT_CMD` is legal wherever it is read (R22). -/
abbrev State.CmdsOk (s : State) : Prop := ∀ x ∈ s.ports, x.state ≠ .idle → commandIsExec s.params x.cmd = true

/-- The invariant of the machine: every step keeps it, for every parameter and every environment. -/
abbrev State.Inv (s : State) : Prop := s.SizesOk ∧ s.LockOk ∧ s.AttemptOk ∧ s.LinkOk ∧ s.CmdsOk

/-- How far within an attempt the transport stands, counted down to the end of the attempt. -/
def TState.stage : TState → Nat
  | .tInit => 0
  | .tIdle => 0
  | .tBackoff => 4
  | .tSend => 3
  | .tRecv => 2
  | .tCheck => 1
  | .tReconnect => 1

/-- The progress measure of a transaction (R175): 0 when the lock is free, else what is left of the attempts. -/
def State.rank (s : State) : Nat :=
  match s.lockOwner with
  | none => 0
  | some _ => (maxAttempts - s.attempt) * 5 + s.tState.stage + 1

/-- The elements of R21's table agree: the two states differ at most in the model's own fields. -/
abbrev State.SameBlock (s t : State) : Prop :=
  s.ports = t.ports ∧ s.lockOwner = t.lockOwner ∧ s.tState = t.tState ∧ s.attempt = t.attempt ∧ s.rxbuf = t.rxbuf ∧
    s.linkState = t.linkState ∧ s.stats = t.stats ∧ s.params = t.params

/-- The transport's registers agree: the lock, T_STATE, ATTEMPT, RXBUF, LINK_STATE and what the bus has seen. -/
abbrev State.SameTransport (s t : State) : Prop :=
  s.lockOwner = t.lockOwner ∧ s.tState = t.tState ∧ s.attempt = t.attempt ∧ s.rxbuf = t.rxbuf ∧
    s.linkState = t.linkState ∧ s.linkLog = t.linkLog

/-- Everything but the ports and the delivered responses agrees. -/
abbrev State.KeepsRest (s t : State) : Prop :=
  s.SameTransport t ∧ s.stats = t.stats ∧ s.params = t.params ∧ s.issuer = t.issuer ∧ s.inputs = t.inputs ∧
    s.draws = t.draws

/-- Every port but p holds what it held. -/
abbrev State.KeepsOtherPorts (s t : State) (p : Nat) : Prop :=
  s.ports.length = t.ports.length ∧ ∀ q, q ≠ p → t.ports[q]? = s.ports[q]?

/-- Every counter but those of one address and direction holds what it held. -/
abbrev State.KeepsOtherStats (s t : State) (a : Nat) (d : Dir) : Prop :=
  ∀ b e c, ¬(b = a ∧ e = d) → t.stat b e c = s.stat b e c

/-- `(CRC_HI[p], CRC_LO[p])`, none for a port that does not exist. -/
def State.crc? (s : State) (p : Nat) : Option (Byte × Byte) :=
  match s.ports[p]? with
  | some x => some (x.crcHi, x.crcLo)
  | none => none

/-- `PORT_CMD[p]`, none for a port that does not exist. -/
def State.cmd? (s : State) (p : Nat) : Option Command :=
  match s.ports[p]? with
  | some x => some x.cmd
  | none => none

/-- The port whose transaction made a link access; none for the open of T_INIT. -/
def LinkAccess.owner : LinkAccess → Option Nat
  | .write p _ _ => some p
  | .received p _ => some p
  | .readError p => some p
  | .close p => some p
  | .opening p _ => p

/-- The event whose move the next step makes: the first listed one that can happen, else the transport's own move if it
can; none if the step only moves the draw counter (R150; log 1, 2). -/
def State.taken (s : State) : Option Event :=
  match firstEnabled s s.inputs with
  | some (e, _) => some e
  | none => s.ownMove.filter s.enabled

/-- The sum of the three soft-error counters of one address and direction (R169). -/
def State.softErrors (s : State) (a : Nat) (d : Dir) : Nat := s.stat a d .csum + s.stat a d .nodata + s.stat a d .proto

/-- `k` steps from a state. -/
def runSteps (k : Nat) (s : State) : Host.Outcome State Fault Refusal := Host.Core.run
  { State := State, Fault := Fault, Refusal := Refusal, step := step, reset := State.reset } k s

/-- Run commands one after the other for the port `issuer`, stopping at the first that does not complete. -/
def execAll : List Instr → State → Host.Outcome State Fault Refusal
  | [], s => .next s
  | i :: rest, s =>
    match exec i s with
    | .next t => execAll rest t
    | .fault r => .fault r
    | .refused r => .refused r

/-- A byte list with bit j of byte i inverted. -/
def flipBit (bytes : List Byte) (i j : Nat) : List Byte :=
  bytes.set i (bytes.getD i 0 ^^^ BitVec.twoPow 8 j)

end Sys2Proof.Machine
end

