-- ==== Sys2Proof/WellFormed.lean ====
section
/-! DEFINITION. Well-formed commands (spec/30_encoding.md R74, R66): which operand values are in range. A command that is
not well-formed still decodes; the block answers it BAD_OPERAND (R208). Each check has its own name. -/

namespace Sys2Proof

/-- Why an operand is out of range (R74). -/
inductive Malformed where
  /-- `ADDR` not in 1..32. -/
  | address
  /-- more than 245 payload bytes. -/
  | payloadTooLong
  /-- more than `DATA_MAX` data bytes (R66). -/
  | dataTooLong
  /-- an empty request frame. -/
  | emptyFrame
  /-- a counter select of 5..7 (R68). -/
  | counterSelect
  deriving DecidableEq, Repr

/-- The first operand check of R74 that fails, none if all pass. -/
def Instr.malformed (dataMax : Nat) : Instr → Option Malformed
  | .crcInit => none
  | .crcUpdate _ => none
  | .crcFinish => none
  | .frmRead a => if 1 ≤ a.toNat ∧ a.toNat ≤ 32 then none else some .address
  | .frmWrite a _ payload =>
    if dataMax < payload.length then some .dataTooLong
    else if ¬(1 ≤ a.toNat ∧ a.toNat ≤ 32) then some .address
    else if 245 < payload.length then some .payloadTooLong else none
  | .frmVerify _ _ reply => if dataMax < reply.length then some .dataTooLong else none
  | .busExec a _ frame =>
    if dataMax < frame.length then some .dataTooLong
    else if ¬(1 ≤ a.toNat ∧ a.toNat ≤ 32) then some .address
    else if frame = [] then some .emptyFrame else none
  | .statRead a _ c =>
    if ¬(1 ≤ a.toNat ∧ a.toNat ≤ 32) then some .address
    else if 4 < c.toNat then some .counterSelect else none

/-- Every operand of the command is in the range R74 gives it. -/
abbrev Instr.WellFormed (dataMax : Nat) (i : Instr) : Prop := i.malformed dataMax = none

end Sys2Proof
end

