-- ==== Sys2Proof/Certificates/Slice0/Obligations.lean ====
section
/-! DEFINITION. The statements about the model, one `def Obligations.<Name> : Prop` each. A delivery, a link answer, a grant
or a reset stands first in `inputs` where a statement is about the step that takes it; that the environment is such a
list is the model's choice (log 1). A docstring says "the spec's inference" of a rule the spec marks as derived or as
taken from general knowledge. -/

open Sys2Proof Sys2Proof.Machine

/-! Encoding (spec/30_encoding.md). -/

/-- R62 to R69: decoding the encoding of any command, with any operands, gives it back. -/
def Obligations.DecodeOfEncodeIsTheCommand : Prop := ∀ i : Instr, decode (encode i) = .ok i

/-- R62 to R72: a command that decodes is the encoding of what it decodes to, so no bit of it is dropped. -/
def Obligations.EncodeOfDecodeIsTheDelivery : Prop := ∀ (c : Command) (i : Instr), decode c = .ok i → encode i = c

/-- opcode_table.json and R72: a command decodes exactly if its word matches a row of the table under the row's mask
and it carries data only where the row takes data. -/
def Obligations.DecodeAcceptsExactlyTheTableRows : Prop :=
  ∀ c : Command, (∃ i, decode c = .ok i) ↔
    ∃ row ∈ ([(0x00000001, 0xFFFFFFFF, false), (0x00000002, 0xFFFF00FF, false), (0x00000003, 0xFFFFFFFF, false),
        (0x00000010, 0xFFFF00FF, false), (0x00000011, 0x000000FF, true), (0x00000012, 0xFFFE00FF, true),
        (0x00000020, 0xFFFE00FF, true), (0x00000030, 0xFFF000FF, false)] : List (CmdWord × CmdWord × Bool)),
      c.word &&& row.2.1 = row.1 ∧ (row.2.2 = true ∨ c.data = [])

/-- The words of R81's table: the opcode plus the shifted operands. -/
def Obligations.EncodedWordsAreTheSyntaxSums : Prop :=
  (encode .crcInit).word = 0x00000001 ∧ (encode .crcFinish).word = 0x00000003 ∧
    (∀ b, (encode (.crcUpdate b)).word.toNat = 0x00000002 + b.toNat * 2 ^ 8) ∧
    (∀ a, (encode (.frmRead a)).word.toNat = 0x00000010 + a.toNat * 2 ^ 8) ∧
    (∀ a o d, (encode (.frmWrite a o d)).word.toNat = 0x00000011 + a.toNat * 2 ^ 8 + o.toNat * 2 ^ 16) ∧
    (∀ a f d, (encode (.frmVerify a f d)).word.toNat = 0x00000012 + a.toNat * 2 ^ 8 + dirIndex f * 2 ^ 16) ∧
    (∀ a f d, (encode (.busExec a f d)).word.toNat = 0x00000020 + a.toNat * 2 ^ 8 + dirIndex f * 2 ^ 16) ∧
    (∀ a d c, (encode (.statRead a d c)).word.toNat =
      0x00000030 + a.toNat * 2 ^ 8 + dirIndex d * 2 ^ 16 + c.toNat * 2 ^ 17)

/-- The worked encodings of R81 decode to the commands they stand for. -/
def Obligations.WorkedEncodingsDecode : Prop :=
  decode ⟨0x00008102, []⟩ = .ok (.crcUpdate 0x81) ∧ decode ⟨0x00120311, [22]⟩ = .ok (.frmWrite 3 18 [22]) ∧
    decode ⟨0x00000520, [1]⟩ = .ok (.busExec 5 .read [1]) ∧ decode ⟨0x00090530, []⟩ = .ok (.statRead 5 .write 4)

/-! Acceptance (spec/42_transport.md R153, spec/30_encoding.md R72 to R74). -/

/-- R153: when a delivery to an IDLE port stands first and its command decodes, the step is that command's meaning for
that port, at the state that no longer offers the delivery. -/
def Obligations.StepRunsTheDecodedCommand : Prop :=
  ∀ (s : State) (p : Nat) (c : Command) (rest : List Event) (i : Instr), s.inputs = .deliver p c :: rest →
    s.portState? p = some .idle → decode c = .ok i → step s = exec i { s with inputs := rest, issuer := p }

/-- The model's choice (log 3): a table word placed by `withFetchWord` is what the very next step runs, in any state
that has a port. -/
def Obligations.PlacedWordRunsInTheNextStep : Prop :=
  ∀ (s : State) (nbits w : Nat) (i : Instr), s.ports ≠ [] → decodeTableWord nbits w = some i →
    ∃ s₀, step (s.withFetchWord nbits w) = exec i s₀ ∧ s₀.issuer < s₀.ports.length ∧ s₀.stats = s.stats ∧
      s.SameTransport s₀ ∧ s₀.inputs = s.inputs ∧ s₀.params = s.params

/-- R72, R73: an unassigned opcode, a reserved bit set, or data on a command that takes none, delivered to an IDLE
port, is answered ILLEGAL_CMD and changes no state of the block. -/
def Obligations.IllegalCommandsAreAnsweredAndChangeNothing : Prop :=
  ∀ (s : State) (p : Nat) (c : Command) (rest : List Event), s.inputs = .deliver p c :: rest →
    s.portState? p = some .idle →
    (let op := (c.word &&& 0xFF).toNat
     op ∉ [0x01, 0x02, 0x03, 0x10, 0x11, 0x12, 0x20, 0x30] ∨
      (op ∈ [0x01, 0x03] ∧ (c.word >>> 8 ≠ 0 ∨ c.data ≠ [])) ∨
      (op ∈ [0x02, 0x10] ∧ (c.word >>> 16 ≠ 0 ∨ c.data ≠ [])) ∨
      (op ∈ [0x12, 0x20] ∧ c.word >>> 17 ≠ 0) ∨ (op = 0x30 ∧ (c.word >>> 20 ≠ 0 ∨ c.data ≠ []))) →
    ∃ t, step s = .next t ∧ s.SameBlock t ∧ t.responses = ⟨p, .illegalCmd, [], 0⟩ :: s.responses ∧
      t.linkLog = s.linkLog ∧ t.inputs = rest ∧ t.draws = s.draws

/-- R74, R208: a decoded command is answered BAD_OPERAND exactly if an operand is out of its range, and then no state
of the block changes. -/
def Obligations.BadOperandExactlyWhenOutOfRange : Prop :=
  ∀ (s : State) (i : Instr), s.issuer < s.ports.length →
    (¬ i.WellFormed s.params.dataMax → ∃ t, exec i s = .next t ∧ s.SameBlock t ∧ s.KeepsRest t ∧
      t.responses = ⟨s.issuer, .badOperand, [], 0⟩ :: s.responses) ∧
    (i.WellFormed s.params.dataMax → ∃ t, exec i s = .next t ∧
      ∀ r, t.responses = r :: s.responses → r.code ≠ .badOperand)

/-- R61, R237: a delivery to a port that is not IDLE is held: whatever the step does, the delivery is still offered.
-/
def Obligations.DeliveryToABusyPortIsHeld : Prop :=
  ∀ (s s' : State) (p : Nat) (c : Command), s.portState? p ≠ some .idle → .deliver p c ∈ s.inputs → step s = .next s' →
    .deliver p c ∈ s'.inputs

/-! The checksum engine (spec/40_crc.md). -/

/-- CRC.INIT puts the issuing port's accumulator at the seed, answers OK, and changes nothing else. -/
def Obligations.CrcInitSeedsTheAccumulator : Prop :=
  ∀ s : State, s.issuer < s.ports.length →
    ∃ t, exec .crcInit s = .next t ∧ t.crc? s.issuer = some (0xFF, 0xFF) ∧
      t.responses = ⟨s.issuer, .ok, [], 0⟩ :: s.responses ∧ t.portState? s.issuer = s.portState? s.issuer ∧
      t.cmd? s.issuer = s.cmd? s.issuer ∧ s.KeepsOtherPorts t s.issuer ∧ s.KeepsRest t

/-- CRC.UPDATE for any tables: with t, hi1, lo1 of R102 for the high nibble and then for the low one, the accumulator
takes the table-corrected shift; OK is answered and nothing else changes. -/
def Obligations.CrcUpdateAbsorbsHighThenLowNibble : Prop :=
  ∀ (s : State) (b hi lo : Byte), s.crc? s.issuer = some (hi, lo) →
    let stepHi := fun (h l : Byte) (n : BitVec 4) =>
      ((h <<< 4) ||| (l >>> 4)) ^^^ s.params.crcTable.hi[((h >>> 4).setWidth 4 ^^^ n).toNat]
    let stepLo := fun (h l : Byte) (n : BitVec 4) => (l <<< 4) ^^^ s.params.crcTable.lo[((h >>> 4).setWidth 4 ^^^ n).toNat]
    let h1 := stepHi hi lo (BitVec.ofNat 4 (b.toNat / 16))
    let l1 := stepLo hi lo (BitVec.ofNat 4 (b.toNat / 16))
    ∃ t, exec (.crcUpdate b) s = .next t ∧
      t.crc? s.issuer = some (stepHi h1 l1 (BitVec.ofNat 4 b.toNat), stepLo h1 l1 (BitVec.ofNat 4 b.toNat)) ∧
      t.responses = ⟨s.issuer, .ok, [], 0⟩ :: s.responses ∧ t.portState? s.issuer = s.portState? s.issuer ∧
      t.cmd? s.issuer = s.cmd? s.issuer ∧ s.KeepsOtherPorts t s.issuer ∧ s.KeepsRest t

/-- CRC.FINISH answers the accumulator low byte first and changes no state of the block. -/
def Obligations.CrcFinishReturnsLowByteFirst : Prop :=
  ∀ (s : State) (hi lo : Byte), s.crc? s.issuer = some (hi, lo) →
    ∃ t, exec .crcFinish s = .next t ∧ t.responses = ⟨s.issuer, .ok, [lo, hi], 0⟩ :: s.responses ∧ s.SameBlock t ∧
      s.KeepsRest t

/-- R108 to R112: CRC.INIT, one CRC.UPDATE a byte and CRC.FINISH on one port answer crc16 of the bytes, whatever the
accumulator held and whatever the tables are, and leave those two bytes in the port's accumulator; they change no
other port, not the port's PORT_STATE or PORT_CMD, and nothing else of the block. -/
def Obligations.CrcCommandsComputeTheChecksum : Prop :=
  ∀ (s : State) (bytes : List Byte), s.issuer < s.ports.length →
    ∃ t hi lo, execAll (.crcInit :: bytes.map .crcUpdate ++ [.crcFinish]) s = .next t ∧
      crc16 s.params.crcTable bytes = [lo, hi] ∧ t.crc? s.issuer = some (hi, lo) ∧
      t.responses.head? = some ⟨s.issuer, .ok, [lo, hi], 0⟩ ∧
      t.responses.length = s.responses.length + bytes.length + 2 ∧ t.portState? s.issuer = s.portState? s.issuer ∧
      t.cmd? s.issuer = s.cmd? s.issuer ∧ s.KeepsOtherPorts t s.issuer ∧ s.KeepsRest t

/-- R106, R107 (the spec's inference from general knowledge, about the default tables of log 9): the tables are the
ones generated from polynomial 0x1021, and with them the nibble algorithm is the bitwise CRC-16 with initial value
0xFFFF, low byte first; its check value is 0x29B1. -/
def Obligations.ChecksumIsTheBitwiseCrc : Prop :=
  (∀ t : BitVec 4, lookupHi defaultCrcTable t = hi8 (tableEntry t) ∧ lookupLo defaultCrcTable t = lo8 (tableEntry t)) ∧
    (∀ bytes : List Byte, crc16 defaultCrcTable bytes = [lo8 (crcBitwise bytes), hi8 (crcBitwise bytes)]) ∧
    crcBitwise [0x31, 0x32, 0x33, 0x34, 0x35, 0x36, 0x37, 0x38, 0x39] = 0x29B1

/-- R137 (the spec's inference): with the default tables (log 9) a single-bit flip anywhere in a reply that passed
verify makes it fail with ChecksumMismatch. -/
def Obligations.SingleBitFlipsFailTheChecksum : Prop :=
  ∀ (a : Byte) (f : Dir) (reply payload : List Byte) (i j : Nat), verify defaultCrcTable a f reply = .ok payload →
    i < reply.length → j < 8 → verify defaultCrcTable a f (flipBit reply i j) = .err .checksumMismatch

/-! The frame codec (spec/41_codec.md). -/

/-- FRM.READ with an address in 1..32 answers the ten bytes of R75 and changes no state of the block. -/
def Obligations.FrmReadBuildsTheReadAllRequest : Prop :=
  ∀ (s : State) (a : Byte), s.issuer < s.ports.length → 1 ≤ a.toNat → a.toNat ≤ 32 →
    ∃ t, exec (.frmRead a) s = .next t ∧ s.SameBlock t ∧ s.KeepsRest t ∧
      t.responses = ⟨s.issuer, .ok, [a, 10, 129, 0, 0, 0, 0xFF, 0xFF] ++
        crc16 s.params.crcTable [a, 10, 129, 0, 0, 0, 0xFF, 0xFF], 0⟩ :: s.responses

/-- FRM.WRITE with legal operands answers a frame with the fields of R76, the payload in order and the trailer over
everything before it; parsing the header back gives the offset and the payload length. -/
def Obligations.FrmWriteBuildsTheWriteFieldRequest : Prop :=
  ∀ (s : State) (a : Byte) (off : Half) (payload : List Byte), s.issuer < s.ports.length → 1 ≤ a.toNat →
    a.toNat ≤ 32 → payload.length ≤ 245 → payload.length ≤ s.params.dataMax →
    ∃ t frame, exec (.frmWrite a off payload) s = .next t ∧ s.SameBlock t ∧ s.KeepsRest t ∧
      t.responses = ⟨s.issuer, .ok, frame, 0⟩ :: s.responses ∧ frame.length = 10 + payload.length ∧
      frame[0]? = some a ∧ frame[1]? = some (BitVec.ofNat 8 frame.length) ∧ frame[2]? = some 129 ∧ frame[3]? = some 1 ∧
      le16 frame 4 = off.toNat ∧ le16 frame 6 = payload.length ∧ slice frame 8 (8 + payload.length) = payload ∧
      frame.drop (8 + payload.length) = crc16 s.params.crcTable (frame.take (8 + payload.length))

/-- R135: FRM.VERIFY of a reply within DATA_MAX answers what verify gives, case by case: OK with the payload, or the
code of the error with no data; no state changes. -/
def Obligations.FrmVerifyAnswersTheVerifyResult : Prop :=
  ∀ (s : State) (a : Byte) (f : Dir) (reply : List Byte), s.issuer < s.ports.length →
    reply.length ≤ s.params.dataMax →
    ∃ t, exec (.frmVerify a f reply) s = .next t ∧ s.SameBlock t ∧ s.KeepsRest t ∧
      t.responses = (match verify s.params.crcTable a f reply with
        | .ok payload => ⟨s.issuer, .ok, payload, 0⟩
        | .err .noDataReceived => ⟨s.issuer, .noData, [], 0⟩
        | .err .checksumMismatch => ⟨s.issuer, .checksum, [], 0⟩
        | .err .protocolViolation => ⟨s.issuer, .protocol, [], 0⟩) :: s.responses

/-- R130 with its guards for absent bytes (R132), step by step, for any tables. -/
def Obligations.VerifyFailsAtTheFirstFailingStep : Prop :=
  ∀ (tbl : CrcTable) (a : Byte) (f : Dir) (L : List Byte),
    let n := L.length
    let byte := fun i => L.getD i 0
    verify tbl a f L =
      if n < 3 then .err .noDataReceived
      else if crc16 tbl (slice L 0 (n - 2)) ≠ [byte (n - 2), byte (n - 1)] then .err .checksumMismatch
      else if byte 0 ≠ 129 ∧ byte 0 ≠ 160 then .err .protocolViolation
      else if n < 4 ∨ byte 3 ≠ a then .err .protocolViolation
      else if n < 5 ∨ (byte 4 ≠ 0 ∧ byte 4 ≠ 1) then .err .protocolViolation
      else if (byte 4).toNat ≠ dirIndex f then .err .protocolViolation
      else if byte 4 = 1 ∧ (byte 1).toNat + 256 * (byte 2).toNat ≠ 7 then .err .protocolViolation
      else if (byte 1).toNat + 256 * (byte 2).toNat ≠ n then .err .protocolViolation
      else if byte 4 = 0 then .ok (slice L 9 (n - 2)) else .ok []

/-- R138 (the spec's inference) with C7's condition: a write-field reply that passes steps 1 to 6 and is not 7 bytes
long is ProtocolViolation; a shorter-than-3 reply is NoDataReceived and a bad-CRC reply is ChecksumMismatch instead.
-/
def Obligations.WriteReplyOfAnotherLengthIsRejected : Prop :=
  ∀ (tbl : CrcTable) (a : Byte) (L : List Byte), L.length ≠ 7 →
    (L.length < 3 → verify tbl a .write L = .err .noDataReceived) ∧
    (3 ≤ L.length → crc16 tbl (L.take (L.length - 2)) ≠ L.drop (L.length - 2) →
      verify tbl a .write L = .err .checksumMismatch) ∧
    (3 ≤ L.length → crc16 tbl (L.take (L.length - 2)) = L.drop (L.length - 2) → L[0]? = some 129 ∨ L[0]? = some 160 →
      L[3]? = some a → L[4]? = some 1 → verify tbl a .write L = .err .protocolViolation)

/-- R139 (the spec's inference): a 160-byte data block wrapped in a correctly framed read-all reply from address 5
comes back whole from verify, whatever the bytes 5..8 and the tables; the reply is 171 bytes, within DATA_MAX and
beyond RX_MAX at the defaults. -/
def Obligations.ReadAllReplyRoundTrip : Prop :=
  ∀ (tbl : CrcTable) (block : List Byte) (x5 x6 x7 x8 : Byte), block.length = 160 →
    let head : List Byte := [129, lo8 171, hi8 171, 5, 0, x5, x6, x7, x8]
    let reply := head ++ block ++ crc16 tbl (head ++ block)
    verify tbl 5 .read reply = .ok block ∧ reply.length = 171 ∧ reply.length ≤ defaultParams.dataMax ∧
      defaultParams.rxMax < reply.length

/-- R122, its second sentence the spec's inference: the trailer of a built request covers every byte before it, so
verify never finds it short or corrupt, whatever address and function it is checked against. -/
def Obligations.BuiltRequestsPassTheChecksumStep : Prop :=
  ∀ (tbl : CrcTable) (a b : Byte) (f : Dir) (off : Half) (payload frame : List Byte),
    frame = buildReadAll tbl a ∨ frame = buildWrite tbl a off payload →
    crc16 tbl (frame.take (frame.length - 2)) = frame.drop (frame.length - 2) ∧
      verify tbl b f frame ≠ .err .noDataReceived ∧ verify tbl b f frame ≠ .err .checksumMismatch

/-- R241 (the spec's inference): a reply that verify accepts is rejected when a window keeps only a proper prefix of
it. -/
def Obligations.TruncatedRepliesNeverVerify : Prop :=
  ∀ (tbl : CrcTable) (a : Byte) (f : Dir) (reply payload payload' : List Byte) (m : Nat),
    verify tbl a f reply = .ok payload → m < reply.length → verify tbl a f (reply.take m) ≠ .ok payload'

/-! The transport (spec/42_transport.md). -/

/-- BUS.EXEC with legal operands leaves the issuing port WAITING with the command word and the frame in PORT_CMD,
answers nothing yet, and changes nothing else. -/
def Obligations.BusExecWaitsForTheLock : Prop :=
  ∀ (s : State) (a : Byte) (f : Dir) (frame : List Byte), s.issuer < s.ports.length → 1 ≤ a.toNat → a.toNat ≤ 32 →
    1 ≤ frame.length → frame.length ≤ s.params.dataMax →
    ∃ t c, exec (.busExec a f frame) s = .next t ∧ t.portState? s.issuer = some .waiting ∧ t.cmd? s.issuer = some c ∧
      c.word.toNat = 0x20 + a.toNat * 2 ^ 8 + dirIndex f * 2 ^ 16 ∧ c.data = frame ∧
      t.crc? s.issuer = s.crc? s.issuer ∧ t.responses = s.responses ∧ s.KeepsOtherPorts t s.issuer ∧ s.KeepsRest t

/-- T_INIT: the answer of the open decides LINK_STATE, and the transport becomes idle. -/
def Obligations.InitialOpenSetsTheLinkState : Prop :=
  ∀ (s : State) (answer : OpenAnswer) (rest : List Event), s.tState = .tInit → s.inputs = .linkOpen answer :: rest →
    ∃ t, step s = .next t ∧ t.tState = .tIdle ∧ (t.linkState = .opened ↔ answer = .ok) ∧ t.ports = s.ports ∧
      t.lockOwner = s.lockOwner ∧ t.attempt = s.attempt ∧ t.rxbuf = s.rxbuf ∧ t.stats = s.stats ∧
      t.params = s.params ∧ t.responses = s.responses ∧ t.linkLog = .opening none answer :: s.linkLog ∧ t.inputs = rest

/-- Grant: a waiting port becomes ACTIVE and owns the lock, ATTEMPT is 0 and the transport sends. -/
def Obligations.GrantGivesTheLockToAWaitingPort : Prop :=
  ∀ (s : State) (q : Nat) (rest : List Event), s.tState = .tIdle → s.lockOwner = none →
    s.portState? q = some .waiting → s.inputs = .grant q :: rest →
    ∃ t, step s = .next t ∧ t.lockOwner = some q ∧ t.portState? q = some .active ∧ t.cmd? q = s.cmd? q ∧
      t.crc? q = s.crc? q ∧ t.attempt = 0 ∧ t.tState = .tSend ∧ s.KeepsOtherPorts t q ∧ t.rxbuf = s.rxbuf ∧
      t.linkState = s.linkState ∧ t.stats = s.stats ∧ t.params = s.params ∧ t.responses = s.responses ∧
      t.linkLog = s.linkLog ∧ t.inputs = rest

/-- R154, for the grant the transport makes by itself when no offered event can happen: some waiting port gets the
lock, and nothing says which (log 2). -/
def Obligations.OwnGrantChoosesSomeWaitingPort : Prop :=
  ∀ s : State, s.tState = .tIdle → s.lockOwner = none → (∃ q, s.portState? q = some .waiting) →
    (∀ e ∈ s.inputs, s.enabled e = false) →
    ∃ t q, step s = .next t ∧ s.portState? q = some .waiting ∧ t.lockOwner = some q ∧ t.portState? q = some .active ∧
      t.attempt = 0 ∧ t.tState = .tSend ∧ s.KeepsOtherPorts t q

/-- R155: a send on a closed link is a connection failure without any link access. -/
def Obligations.SendOnAClosedLinkReconnects : Prop :=
  ∀ (s : State) (rest : List Event), s.tState = .tSend → s.linkState = .closed → s.inputs = .sendClosed :: rest →
    step s = .next { s with tState := .tReconnect, inputs := rest }

/-- Send on an open link: the owner's whole frame is offered to the bus; ok leads to T_RECV, io_error to T_RECONNECT;
nothing else changes. -/
def Obligations.SendOffersTheOwnersFrame : Prop :=
  ∀ (s : State) (p : Nat) (c : Command) (answer : WriteAnswer) (rest : List Event), s.tState = .tSend →
    s.linkState = .opened → s.lockOwner = some p → s.cmd? p = some c → s.inputs = .linkWrite answer :: rest →
    step s = .next { s with
      inputs := rest, linkLog := .write p c.data answer :: s.linkLog,
      tState := if answer = .ok then .tRecv else .tReconnect }

/-- Receive: the window's bytes, at most RX_MAX of what the line offers (log 13), replace RXBUF and are checked next;
an io_error leaves RXBUF as it is and leads to T_RECONNECT; nothing else changes. -/
def Obligations.ReceiveKeepsAtMostRxMaxBytes : Prop :=
  ∀ (s : State) (p : Nat) (c : Command) (rest : List Event), s.tState = .tRecv → s.lockOwner = some p →
    s.cmd? p = some c →
    (∀ offered, s.inputs = .linkRead (.bytes offered) :: rest → step s = .next { s with
      inputs := rest, rxbuf := offered.take s.params.rxMax, tState := .tCheck,
      linkLog := .received p (offered.take s.params.rxMax) :: s.linkLog }) ∧
    (s.inputs = .linkRead .ioError :: rest → step s = .next { s with
      inputs := rest, tState := .tReconnect, linkLog := .readError p :: s.linkLog })

/-- Check of an accepted reply: the response carries the payload and the number of failed attempts, TXN of the owner's
address and direction is counted, and in the same step the port is IDLE and the lock free. -/
def Obligations.AcceptedReplyCompletesTheTransaction : Prop :=
  ∀ (s : State) (p : Nat) (c : Command) (payload : List Byte) (rest : List Event), s.Inv → s.tState = .tCheck →
    s.lockOwner = some p → s.cmd? p = some c → s.inputs = .check :: rest →
    verify s.params.crcTable (addrField c.word) (dirField c.word) s.rxbuf = .ok payload →
    ∃ t, step s = .next t ∧ t.responses = ⟨p, .ok, payload, BitVec.ofNat 8 s.attempt⟩ :: s.responses ∧
      t.portState? p = some .idle ∧ t.crc? p = s.crc? p ∧ t.cmd? p = s.cmd? p ∧ t.lockOwner = none ∧
      t.attempt = 0 ∧ t.tState = .tIdle ∧
      t.rxbuf = s.rxbuf ∧ t.linkState = s.linkState ∧ t.linkLog = s.linkLog ∧ t.params = s.params ∧
      s.KeepsOtherPorts t p ∧ t.inputs = rest ∧
      (∀ b d k, t.stat b d k = if b = (addrField c.word).toNat ∧ d = dirField c.word ∧ k = .txn
        then satInc s.params.ctrW (s.stat b d k) else s.stat b d k)

/-- R158, R159: check of a rejected reply: exactly one counter is counted, the bucket of the error, ATTEMPT goes up by
one and the backoff starts; no response, and nothing else changes. -/
def Obligations.RejectedReplyIsOneSoftError : Prop :=
  ∀ (s : State) (p : Nat) (c : Command) (e : VerifyError) (rest : List Event), s.Inv → s.tState = .tCheck →
    s.lockOwner = some p → s.cmd? p = some c → s.inputs = .check :: rest →
    verify s.params.crcTable (addrField c.word) (dirField c.word) s.rxbuf = .err e →
    ∃ t k, step s = .next t ∧
      k = (match e with
        | .noDataReceived => Counter.nodata | .checksumMismatch => Counter.csum | .protocolViolation => Counter.proto) ∧
      (∀ b d k', t.stat b d k' = if b = (addrField c.word).toNat ∧ d = dirField c.word ∧ k' = k
        then satInc s.params.ctrW (s.stat b d k') else s.stat b d k') ∧
      t = { s with inputs := rest, attempt := s.attempt + 1, tState := .tBackoff, stats := t.stats }

/-- R161, R163: a backoff ends in the next attempt while fewer than five have failed, else in the hard failure: HARD
and TXN are counted, HARD_FAILURE with count 5 is answered, and the lock is released. -/
def Obligations.BackoffEndsInRetryOrHardFailure : Prop :=
  ∀ (s : State) (p : Nat) (c : Command) (rest : List Event), s.Inv → s.tState = .tBackoff → s.lockOwner = some p →
    s.cmd? p = some c → s.inputs = .backoffEnd :: rest →
    (s.attempt < 5 → step s = .next { s with inputs := rest, tState := .tSend }) ∧
    (s.attempt = 5 → ∃ t, step s = .next t ∧ t.responses = ⟨p, .hardFailure, [], 5⟩ :: s.responses ∧
      t.portState? p = some .idle ∧ t.crc? p = s.crc? p ∧ t.cmd? p = s.cmd? p ∧ t.lockOwner = none ∧
      t.attempt = 0 ∧ t.tState = .tIdle ∧
      t.rxbuf = s.rxbuf ∧ t.linkState = s.linkState ∧ t.linkLog = s.linkLog ∧ t.params = s.params ∧
      s.KeepsOtherPorts t p ∧ t.inputs = rest ∧
      (∀ b d k, t.stat b d k = if b = (addrField c.word).toNat ∧ d = dirField c.word ∧ (k = .hard ∨ k = .txn)
        then satInc s.params.ctrW (s.stat b d k) else s.stat b d k))

/-- Reconnect: the link is closed and opened again, the answer decides LINK_STATE, one more attempt is used up; with
attempts left the transport sends at once and counts nothing, else the transaction fails hard. -/
def Obligations.ReconnectUsesUpAnAttempt : Prop :=
  ∀ (s : State) (p : Nat) (c : Command) (answer : OpenAnswer) (rest : List Event), s.Inv → s.tState = .tReconnect →
    s.lockOwner = some p → s.cmd? p = some c → s.inputs = .linkOpen answer :: rest →
    ∃ t, step s = .next t ∧ (t.linkState = .opened ↔ answer = .ok) ∧ t.rxbuf = s.rxbuf ∧ t.params = s.params ∧
      t.linkLog = .opening (some p) answer :: .close p :: s.linkLog ∧ t.inputs = rest ∧
      (s.attempt + 1 < 5 → t.tState = .tSend ∧ t.attempt = s.attempt + 1 ∧ t.stats = s.stats ∧ t.ports = s.ports ∧
        t.lockOwner = s.lockOwner ∧ t.responses = s.responses) ∧
      (s.attempt + 1 = 5 → t.tState = .tIdle ∧ t.attempt = 0 ∧ t.lockOwner = none ∧ t.portState? p = some .idle ∧
        t.crc? p = s.crc? p ∧ t.cmd? p = s.cmd? p ∧ s.KeepsOtherPorts t p ∧
        t.responses = ⟨p, .hardFailure, [], 5⟩ :: s.responses ∧
        (∀ b d k, t.stat b d k = if b = (addrField c.word).toNat ∧ d = dirField c.word ∧ (k = .hard ∨ k = .txn)
          then satInc s.params.ctrW (s.stat b d k) else s.stat b d k))

/-- R182: the step of a connection failure (a failed write, a failed read, a send on a closed link) and the reconnect
after it count in no soft-error bucket, whatever attempts are left, and leave every counter as it is unless a
reconnect uses up the last attempt. -/
def Obligations.ConnectionFailuresCountNothing : Prop :=
  ∀ (s s' : State) (e : Event) (rest : List Event), s.inputs = e :: rest → s.enabled e = true →
    e = .linkWrite .ioError ∨ e = .linkRead .ioError ∨ e = .sendClosed ∨ (∃ answer, e = .linkOpen answer) →
    step s = .next s' →
    (∀ a d k, k = .csum ∨ k = .nodata ∨ k = .proto → s'.stat a d k = s.stat a d k) ∧
      ((∀ answer, e = .linkOpen answer → s.attempt + 1 < 5) → s'.stats = s.stats)

/-- From an idle transport with an open link and port p waiting: grant, write, a window whose kept bytes verify (of a
longer offer the first RX_MAX, log 13), and the check, which the transport makes by itself when nothing offered can
happen (log 2), answer OK with the payload and count 0; the bus saw the frame once. -/
def Obligations.OneGoodReplyCompletesATransaction : Prop :=
  ∀ (s : State) (p : Nat) (c : Command) (offered payload : List Byte), s.Inv → s.tState = .tIdle →
    s.linkState = .opened → s.portState? p = some .waiting → s.cmd? p = some c →
    s.inputs = [.grant p, .linkWrite .ok, .linkRead (.bytes offered)] →
    verify s.params.crcTable (addrField c.word) (dirField c.word) (offered.take s.params.rxMax) = .ok payload →
    ∃ t, runSteps 4 s = .next t ∧ t.responses = ⟨p, .ok, payload, 0⟩ :: s.responses ∧ t.portState? p = some .idle ∧
      t.lockOwner = none ∧ t.tState = .tIdle ∧ t.linkState = .opened ∧ s.KeepsOtherPorts t p ∧
      t.rxbuf = offered.take s.params.rxMax ∧
      t.linkLog = .received p (offered.take s.params.rxMax) :: .write p c.data .ok :: s.linkLog ∧
      (∀ b d k, t.stat b d k = if b = (addrField c.word).toNat ∧ d = dirField c.word ∧ k = .txn
        then satInc s.params.ctrW (s.stat b d k) else s.stat b d k)

/-- R169 (the spec's inference), for one fixed list of offered events (log 1): when each of the five attempts of a
granted transaction reaches the check and fails verification, its soft-error counters go up by exactly 5 in all, HARD
and TXN by exactly 1, no other counter changes, and the answer is (HARD_FAILURE, [], 5) with the lock free. The checks
and the backoff ends are the transport's own moves, so that the run takes 20 steps is the model's choice (log 2); a
window keeps the first RX_MAX bytes of its offer (log 13). The counters are far enough from saturation for the numbers
to show. -/
def Obligations.FiveFailedAttemptsAreOneHardFailure : Prop :=
  ∀ (s : State) (p : Nat) (c : Command) (windows : List (List Byte)), s.Inv → s.tState = .tSend →
    s.linkState = .opened → s.lockOwner = some p → s.cmd? p = some c → s.attempt = 0 → windows.length = 5 →
    s.inputs = windows.flatMap (fun w => [.linkWrite .ok, .linkRead (.bytes w)]) →
    (∀ w ∈ windows, ∃ e, verify s.params.crcTable (addrField c.word) (dirField c.word) (w.take s.params.rxMax) = .err e) →
    (∀ k, s.stat (addrField c.word).toNat (dirField c.word) k + 5 ≤ 2 ^ s.params.ctrW - 1) →
    ∃ t, runSteps 20 s = .next t ∧ t.responses = ⟨p, .hardFailure, [], 5⟩ :: s.responses ∧
      t.softErrors (addrField c.word).toNat (dirField c.word) =
        s.softErrors (addrField c.word).toNat (dirField c.word) + 5 ∧
      t.stat (addrField c.word).toNat (dirField c.word) .hard =
        s.stat (addrField c.word).toNat (dirField c.word) .hard + 1 ∧
      t.stat (addrField c.word).toNat (dirField c.word) .txn =
        s.stat (addrField c.word).toNat (dirField c.word) .txn + 1 ∧
      s.KeepsOtherStats t (addrField c.word).toNat (dirField c.word) ∧ t.lockOwner = none ∧ t.tState = .tIdle ∧
      t.portState? p = some .idle ∧ s.KeepsOtherPorts t p

/-! The whole machine. -/

/-- STAT.READ with legal operands answers the counter little-endian in CTR_W/8 bytes and changes no state of the
block; where CTR_W is not a multiple of 8 the bytes are the counter's low ones (the model's choice, log 14). -/
def Obligations.StatReadReturnsTheCounterLittleEndian : Prop :=
  ∀ (s : State) (a : Byte) (d : Dir) (c : BitVec 3) (k : Counter), s.issuer < s.ports.length → 1 ≤ a.toNat →
    a.toNat ≤ 32 → c.toNat = ctrIndex k →
    ∃ t data, exec (.statRead a d c) s = .next t ∧ s.SameBlock t ∧ s.KeepsRest t ∧
      t.responses = ⟨s.issuer, .ok, data, 0⟩ :: s.responses ∧ data.length = s.params.ctrW / 8 ∧
      data.foldr (fun b v => b.toNat + 256 * v) 0 = s.stat a.toNat d k % 256 ^ (s.params.ctrW / 8) ∧
      (8 ∣ s.params.ctrW → s.stat a.toNat d k < 2 ^ s.params.ctrW →
        data.foldr (fun b v => b.toNat + 256 * v) 0 = s.stat a.toNat d k)

/-- Every instance is within the invariant right after reset, whatever its parameters. -/
def Obligations.InvariantHoldsAtReset : Prop := (∀ ps : Params, (State.resetWith ps).Inv) ∧ State.reset.Inv

/-- Every step keeps the invariant, for all parameters, all commands and every behaviour of the environment: sizes and
ranges, one ACTIVE port and it owns the lock, ATTEMPT and LINK_STATE where the transport stands, PORT_CMD legal. -/
def Obligations.EveryStepKeepsTheInvariant : Prop := ∀ s s' : State, s.Inv → step s = .next s' → s'.Inv

/-- In every state the step answers a next state. That no error is a trap is R209; that a step with no answer of the
link and no move to make moves the draw counter (R171, R174 and R220 give no step there) is the model's choice of log
2, and that the operations are total in states no run reaches is that of log 15. -/
def Obligations.EveryStepAnswersANextState : Prop := ∀ s : State, ∃ s', step s = .next s'

/-- R166 and R167 (the spec's inference): only the port that owns the lock makes link accesses, the T_INIT open apart,
and what it writes is its own frame whole. -/
def Obligations.OnlyTheLockOwnerTouchesTheLink : Prop :=
  ∀ s s' : State, step s = .next s' → ∃ new, s'.linkLog = new ++ s.linkLog ∧
    (∀ x ∈ new, (x.owner = s.lockOwner ∧ s.lockOwner ≠ none) ∨ (s.tState = .tInit ∧ x.owner = none)) ∧
    (∀ p frame answer, .write p frame answer ∈ new → ∃ c, s.cmd? p = some c ∧ c.data = frame)

/-- R181: a counter changes only by sat_inc in a check (R159, R164: not HARD) or in a backoff end or a reconnect that
uses up the last attempt (R163, R164: HARD or TXN), or to 0 in a reset; so but for a reset it never falls. The event
named is the one this very step takes. -/
def Obligations.CountersOnlyGrow : Prop :=
  ∀ (s s' : State) (a : Nat) (d : Dir) (k : Counter), step s = .next s' →
    s'.stat a d k = s.stat a d k ∨
      (s'.stat a d k = satInc s.params.ctrW (s.stat a d k) ∧ s.stat a d k ≤ s'.stat a d k ∧
        ((s.taken = some .check ∧ k ≠ .hard) ∨
          ((k = .hard ∨ k = .txn) ∧
            ((s.taken = some .backoffEnd ∧ 5 ≤ s.attempt) ∨
              (s.tState = .tReconnect ∧ 5 ≤ s.attempt + 1 ∧ ∃ answer, s.taken = some (.linkOpen answer)))))) ∨
      (s.taken = some .reset ∧ firstEnabled s s.inputs = some (.reset, s'.inputs) ∧ s'.stat a d k = 0)

/-- R175, its bound the spec's inference: while a transaction holds the lock, every step either leaves the transport
as it is or strictly lowers the progress measure, which is at most 30: a transaction takes at most 30 transport steps.
-/
def Obligations.TransactionsMakeBoundedProgress : Prop :=
  ∀ (s s' : State) (p : Nat), s.Inv → s.lockOwner = some p → step s = .next s' →
    s.rank ≤ 30 ∧ (s.SameTransport s' ∨ s'.rank < s.rank)

/-- R175 (a), (b), as the model has it (log 2): when no offered event can happen, an open read window, a pending check
and a backoff end in that very step. -/
def Obligations.WindowsChecksAndBackoffsEnd : Prop :=
  ∀ s : State, s.Inv → s.tState = .tRecv ∨ s.tState = .tCheck ∨ s.tState = .tBackoff →
    (∀ e ∈ s.inputs, s.enabled e = false) → ∃ s', step s = .next s' ∧ s'.rank < s.rank

/-- The transport's own move is the move of the same event offered by the environment (log 2). -/
def Obligations.OwnMoveIsTheOfferedMove : Prop :=
  ∀ (s : State) (e : Event), (∀ x ∈ s.inputs, s.enabled x = false) → s.ownMove = some e → s.enabled e = true →
    step s = step { s with inputs := e :: s.inputs, draws := s.draws + 1 }

/-- R230, R231, R233: a reset puts every element of the block at its reset value, drops every command without a
response and keeps the parameters. Two clauses are the model's choices: PORT_CMD's value after reset (log 7), and that
what the environment has seen and still offers stays as it is (log 12). -/
def Obligations.ResetDropsEveryCommand : Prop :=
  ∀ (s : State) (rest : List Event), s.inputs = .reset :: rest →
    ∃ t, step s = .next t ∧ (State.resetWith s.params).SameBlock t ∧ t.responses = s.responses ∧
      t.linkLog = s.linkLog ∧ t.inputs = rest

/-- R30, R206: an instance is constructed, in its reset state, exactly if one of the two link fields is given. R10: it
has N_PORTS ports, at least one. -/
def Obligations.ConstructionNeedsExactlyOneLinkField : Prop :=
  ∀ (ps : Params) (cfg : LinkCfg),
    ((cfg.bridge.isSome ∧ cfg.device = none) ∨ (cfg.bridge = none ∧ cfg.device.isSome) →
      construct ps cfg = .ok (State.resetWith { ps with linkCfg := cfg }) ∧
        (State.resetWith { ps with linkCfg := cfg }).ports.length = ps.nPorts ∧ 1 ≤ ps.nPorts ∧
        ∀ p < ps.nPorts, (State.resetWith { ps with linkCfg := cfg }).portState? p = some .idle) ∧
    ((cfg.bridge.isSome ∧ cfg.device.isSome) ∨ (cfg.bridge = none ∧ cfg.device = none) →
      construct ps cfg = .error .linkCfg)

/-- R168: no step but one that takes a reset removes a command from a port that is not IDLE: the port keeps PORT_CMD,
and it becomes IDLE only in the step that delivers its response. -/
def Obligations.CommandsAreNotCancelled : Prop :=
  ∀ (s s' : State) (p : Nat), s.taken ≠ some .reset → s.portState? p = some .waiting ∨ s.portState? p = some .active →
    step s = .next s' →
    s'.cmd? p = s.cmd? p ∧ (s'.portState? p = some .waiting ∨ s'.portState? p = some .active ∨
      (s'.portState? p = some .idle ∧ ∃ r, s'.responses = r :: s.responses ∧ r.port = p))

/-- R26: the meaning of a command does not depend on another port's accumulator and leaves it alone: with another
value there, the command does the same and that value is still there. -/
def Obligations.PortsCannotReachEachOthersAccumulators : Prop :=
  ∀ (s t : State) (i : Instr) (q : Nat) (x : Port) (acc : Acc), q ≠ s.issuer → s.ports[q]? = some x →
    exec i s = .next t → exec i (s.setPort q (x.setAcc acc)) = .next (t.setPort q (x.setAcc acc))

/-- R153, R48: no command's meaning touches the transport, the link, the statistics or another port, and all but
BUS.EXEC complete at once: exactly one response, to the issuing port, with count 0. -/
def Obligations.CommandsLeaveTheTransportAlone : Prop :=
  ∀ (s t : State) (i : Instr), exec i s = .next t → s.KeepsRest t ∧ s.KeepsOtherPorts t s.issuer ∧
    ((∃ code data, t.responses = ⟨s.issuer, code, data, 0⟩ :: s.responses ∧
        t.portState? s.issuer = s.portState? s.issuer ∧ t.cmd? s.issuer = s.cmd? s.issuer) ∨
      (t.responses = s.responses ∧ t.portState? s.issuer = some .waiting ∧ ∃ a f frame, i = .busExec a f frame))

/-- R60, R70: a step delivers at most one response, and the port it is delivered to is IDLE after that step. -/
def Obligations.AtMostOneResponseAStep : Prop :=
  ∀ s s' : State, step s = .next s' →
    s'.responses = s.responses ∨ ∃ r, s'.responses = r :: s.responses ∧ s'.portState? r.port = some .idle

/-- R71: the 8-bit values of the response codes, all different; no code is in 0x07..0xFF. -/
def Obligations.ResponseCodesAreTheTable : Prop :=
  RespCode.ok.byte = 0x00 ∧ RespCode.hardFailure.byte = 0x01 ∧ RespCode.noData.byte = 0x02 ∧
    RespCode.checksum.byte = 0x03 ∧ RespCode.protocol.byte = 0x04 ∧ RespCode.badOperand.byte = 0x05 ∧
    RespCode.illegalCmd.byte = 0x06 ∧ (∀ c d : RespCode, c.byte = d.byte → c = d) ∧ ∀ c : RespCode, c.byte.toNat < 0x07

/-- R71: BUS.EXEC never returns NO_DATA, CHECKSUM or PROTOCOL: the response of a port that waited or was active is OK
or HARD_FAILURE without data, 0x00 or 0x01. -/
def Obligations.TransactionsAnswerOkOrHardFailure : Prop :=
  ∀ (s s' : State) (r : Response), step s = .next s' → s'.responses = r :: s.responses →
    s.portState? r.port ≠ some .idle →
    (r.code = .ok ∧ r.code.byte = 0x00) ∨ (r.code = .hardFailure ∧ r.code.byte = 0x01 ∧ r.data = [])

/-- R21, R30: no step changes the parameters of the instance. -/
def Obligations.ParametersNeverChange : Prop := ∀ s s' : State, step s = .next s' → s'.params = s.params
end

