-- ==== Sys2Proof/Laws/Codec.lean ====
section
/-! SUPPORT. What a built frame is: its bytes and its trailer (R120 to R122). -/

namespace Sys2Proof.Machine

@[simp] theorem crc16_length (tbl : CrcTable) (bytes : List Byte) : (crc16 tbl bytes).length = 2 := rfl

@[simp] theorem sealFrame_length (tbl : CrcTable) (h : List Byte) : (sealFrame tbl h).length = h.length + 2 := by
  simp [sealFrame]

@[simp] theorem sealFrame_take (tbl : CrcTable) (h : List Byte) : (sealFrame tbl h).take h.length = h := by
  simp [sealFrame]

@[simp] theorem sealFrame_drop (tbl : CrcTable) (h : List Byte) : (sealFrame tbl h).drop h.length = crc16 tbl h := by
  simp [sealFrame]

@[simp] theorem writeHeader_length (a : Byte) (off : Half) (k : Nat) : (writeHeader a off k).length = 8 := rfl

theorem crcFold_append (tbl : CrcTable) (xs ys : List Byte) :
    crcFold tbl (xs ++ ys) = ys.foldl (crcUpdate tbl) (crcFold tbl xs) := by simp [crcFold]

end Sys2Proof.Machine
end

