-- ==== Sys2Proof/Laws/PerInstr.lean ====
section
/-! SUPPORT. A family of lemmas, one per command: the word of a command names its opcode in bits [7:0] and has every
reserved bit of its format 0 (R62, R63 to R68, R69), and it carries data only if its format takes data (R72). -/

namespace Sys2Proof

/-- The opcode of each command (R69). -/
def Instr.opcode : Instr → Opcode
  | .crcInit => .crcInit
  | .crcUpdate _ => .crcUpdate
  | .crcFinish => .crcFinish
  | .frmRead _ => .frmRead
  | .frmWrite _ _ _ => .frmWrite
  | .frmVerify _ _ _ => .frmVerify
  | .busExec _ _ _ => .busExec
  | .statRead _ _ _ => .statRead

/-- The low part of an appended word. -/
theorem extract_append_low {m n : Nat} (x : BitVec m) (y : BitVec n) : (x ++ y).extractLsb' 0 n = y := by
  ext i hi
  simp [BitVec.getLsbD_append, hi]

/-- A field above the low part of an appended word. -/
theorem extract_append_high {m n : Nat} (x : BitVec m) (y : BitVec n) (k len : Nat) :
    (x ++ y).extractLsb' (n + k) len = x.extractLsb' k len := by
  ext i hi
  simp [BitVec.getLsbD_append, Nat.add_assoc]

theorem extract_all {n : Nat} (x : BitVec n) : x.extractLsb' 0 n = x := by
  ext i hi
  simp

theorem opField_wordN (op : Byte) : opField (wordN op) = op := extract_append_low (0#24) op

theorem opField_wordB (op b : Byte) : opField (wordB op b) = op := extract_append_low (0#16 ++ b) op

theorem opField_wordAO (op a : Byte) (off : Half) : opField (wordAO op a off) = op := extract_append_low (off ++ a) op

theorem opField_wordAF (op a : Byte) (f : Dir) : opField (wordAF op a f) = op :=
  extract_append_low (0#15 ++ f.bit ++ a) op

theorem opField_wordAS (op a : Byte) (d : Dir) (c : BitVec 3) : opField (wordAS op a d c) = op :=
  extract_append_low (0#12 ++ c ++ d.bit ++ a) op

theorem reservedClear_wordN (op : Byte) : Format.n.reservedClear (wordN op) = true := by
  have h : (wordN op).extractLsb' 8 24 = 0 := (extract_append_high (0#24) op 0 24).trans (extract_all _)
  simp [Format.reservedClear, h]

theorem reservedClear_wordB (op b : Byte) : Format.b.reservedClear (wordB op b) = true := by
  have h : (wordB op b).extractLsb' 16 16 = 0 :=
    (extract_append_high (0#16 ++ b) op 8 16).trans ((extract_append_high (0#16) b 0 16).trans (extract_all _))
  simp [Format.reservedClear, h]

theorem reservedClear_wordAF (op a : Byte) (f : Dir) : Format.af.reservedClear (wordAF op a f) = true := by
  have h : (wordAF op a f).extractLsb' 17 15 = 0 :=
    (extract_append_high (0#15 ++ f.bit ++ a) op 9 15).trans ((extract_append_high (0#15 ++ f.bit) a 1 15).trans
      ((extract_append_high (0#15) f.bit 0 15).trans (extract_all _)))
  simp [Format.reservedClear, h]

theorem reservedClear_wordAS (op a : Byte) (d : Dir) (c : BitVec 3) : Format.as.reservedClear (wordAS op a d c) = true := by
  have h : (wordAS op a d c).extractLsb' 20 12 = 0 :=
    (extract_append_high (0#12 ++ c ++ d.bit ++ a) op 12 12).trans
      ((extract_append_high (0#12 ++ c ++ d.bit) a 4 12).trans ((extract_append_high (0#12 ++ c) d.bit 3 12).trans
        ((extract_append_high (0#12) c 0 12).trans (extract_all _))))
  simp [Format.reservedClear, h]

namespace Laws.EncodedWord

/-- The word names the opcode, its reserved bits are 0, and it carries data only where the format does. -/
def Statement (i : Instr) : Prop :=
  opField (encode i).word = i.opcode.byte ∧ i.opcode.format.reservedClear (encode i).word = true ∧
    (i.opcode.format.takesData = false → (encode i).data = [])

theorem crcInit : Statement .crcInit := ⟨opField_wordN _, reservedClear_wordN _, fun _ => rfl⟩

theorem crcUpdate (b : Byte) : Statement (.crcUpdate b) := ⟨opField_wordB _ _, reservedClear_wordB _ _, fun _ => rfl⟩

theorem crcFinish : Statement .crcFinish := ⟨opField_wordN _, reservedClear_wordN _, fun _ => rfl⟩

theorem frmRead (a : Byte) : Statement (.frmRead a) := ⟨opField_wordB _ _, reservedClear_wordB _ _, fun _ => rfl⟩

theorem frmWrite (a : Byte) (off : Half) (d : List Byte) : Statement (.frmWrite a off d) :=
  ⟨opField_wordAO _ _ _, rfl, by simp [Instr.opcode, Opcode.format, Format.takesData]⟩

theorem frmVerify (a : Byte) (f : Dir) (d : List Byte) : Statement (.frmVerify a f d) :=
  ⟨opField_wordAF _ _ _, reservedClear_wordAF _ _ _, by simp [Instr.opcode, Opcode.format, Format.takesData]⟩

theorem busExec (a : Byte) (f : Dir) (d : List Byte) : Statement (.busExec a f d) :=
  ⟨opField_wordAF _ _ _, reservedClear_wordAF _ _ _, by simp [Instr.opcode, Opcode.format, Format.takesData]⟩

theorem statRead (a : Byte) (d : Dir) (c : BitVec 3) : Statement (.statRead a d c) :=
  ⟨opField_wordAS _ _ _ _, reservedClear_wordAS _ _ _ _, fun _ => rfl⟩

end Laws.EncodedWord

end Sys2Proof
end

