-- ==== Sys2Proof/Laws/Decode.lean ====
section
/-! SUPPORT. Reading each field back from the word of each format (R62 to R68), and rebuilding a word from its fields when
its reserved bits are 0. -/

namespace Sys2Proof

theorem dir_of_bit (f : Dir) : (if f.bit = 1#1 then Dir.write else Dir.read) = f := by cases f <;> rfl

@[simp] theorem addrField_wordB (op b : Byte) : addrField (wordB op b) = b :=
  (extract_append_high (0#16 ++ b) op 0 8).trans (extract_append_low (0#16) b)

@[simp] theorem addrField_wordAO (op a : Byte) (off : Half) : addrField (wordAO op a off) = a :=
  (extract_append_high (off ++ a) op 0 8).trans (extract_append_low off a)

@[simp] theorem off16Field_wordAO (op a : Byte) (off : Half) : off16Field (wordAO op a off) = off :=
  (extract_append_high (off ++ a) op 8 16).trans ((extract_append_high off a 0 16).trans (extract_all off))

@[simp] theorem addrField_wordAF (op a : Byte) (f : Dir) : addrField (wordAF op a f) = a :=
  (extract_append_high (0#15 ++ f.bit ++ a) op 0 8).trans (extract_append_low (0#15 ++ f.bit) a)

@[simp] theorem dirField_wordAF (op a : Byte) (f : Dir) : dirField (wordAF op a f) = f := by
  have h : (wordAF op a f).extractLsb' 16 1 = f.bit :=
    (extract_append_high (0#15 ++ f.bit ++ a) op 8 1).trans
      ((extract_append_high (0#15 ++ f.bit) a 0 1).trans (extract_append_low (0#15) f.bit))
  rw [dirField, h, dir_of_bit]

@[simp] theorem addrField_wordAS (op a : Byte) (d : Dir) (c : BitVec 3) : addrField (wordAS op a d c) = a :=
  (extract_append_high (0#12 ++ c ++ d.bit ++ a) op 0 8).trans (extract_append_low (0#12 ++ c ++ d.bit) a)

@[simp] theorem dirField_wordAS (op a : Byte) (d : Dir) (c : BitVec 3) : dirField (wordAS op a d c) = d := by
  have h : (wordAS op a d c).extractLsb' 16 1 = d.bit :=
    (extract_append_high (0#12 ++ c ++ d.bit ++ a) op 8 1).trans
      ((extract_append_high (0#12 ++ c ++ d.bit) a 0 1).trans (extract_append_low (0#12 ++ c) d.bit))
  rw [dirField, h, dir_of_bit]

@[simp] theorem ctrField_wordAS (op a : Byte) (d : Dir) (c : BitVec 3) : ctrField (wordAS op a d c) = c :=
  (extract_append_high (0#12 ++ c ++ d.bit ++ a) op 9 3).trans
    ((extract_append_high (0#12 ++ c ++ d.bit) a 1 3).trans
      ((extract_append_high (0#12 ++ c) d.bit 0 3).trans (extract_append_low (0#12) c)))

/-- A word cut at bit n and put together again. -/
theorem append_extract {n m : Nat} (w : BitVec (m + n)) : w.extractLsb' n m ++ w.extractLsb' 0 n = w := by
  simp

/-- A field cut again. -/
theorem extract_extract {k : Nat} (w : BitVec k) (a n b m : Nat) (h : b + m ≤ n) :
    (w.extractLsb' a n).extractLsb' b m = w.extractLsb' (a + b) m := by
  ext i hi
  have : b + i < n := by omega
  simp [this, Nat.add_assoc]

/-- Two adjacent fields are one. -/
theorem extract_adjacent {k : Nat} (w : BitVec k) (a n m : Nat) :
    w.extractLsb' (a + n) m ++ w.extractLsb' a n = w.extractLsb' a (m + n) := by
  rw [← append_extract (w.extractLsb' a (m + n)), extract_extract w a (m + n) n m (by omega),
    extract_extract w a (m + n) 0 n (by omega)]
  rfl

theorem dirField_bit (w : CmdWord) : (dirField w).bit = w.extractLsb' 16 1 := by
  unfold dirField
  split
  · rename_i h; rw [h]; rfl
  · rename_i h
    have : w.extractLsb' 16 1 = 0#1 ∨ w.extractLsb' 16 1 = 1#1 := by
      generalize w.extractLsb' 16 1 = b
      revert b; decide
    rcases this with h' | h'
    · rw [h']; rfl
    · exact absurd h' h

theorem wordN_of_fields {w : CmdWord} (h : Format.n.reservedClear w = true) : wordN (opField w) = w := by
  have h : w.extractLsb' 8 24 = 0 := by simpa [Format.reservedClear] using h
  have := extract_adjacent w 0 8 24
  rw [Nat.zero_add, h, extract_all] at this
  exact this

theorem wordB_of_fields {w : CmdWord} (h : Format.b.reservedClear w = true) : wordB (opField w) (addrField w) = w := by
  have h : w.extractLsb' 16 16 = 0 := by simpa [Format.reservedClear] using h
  have h1 : w.extractLsb' 16 16 ++ w.extractLsb' 8 8 = w.extractLsb' 8 24 := extract_adjacent w 8 8 16
  have h2 : w.extractLsb' 8 24 ++ w.extractLsb' 0 8 = w := (extract_adjacent w 0 8 24).trans (extract_all w)
  rw [← h1, h] at h2
  exact h2

theorem wordAO_of_fields (w : CmdWord) : wordAO (opField w) (addrField w) (off16Field w) = w := by
  have h1 : w.extractLsb' 16 16 ++ w.extractLsb' 8 8 = w.extractLsb' 8 24 := extract_adjacent w 8 8 16
  have h2 : w.extractLsb' 8 24 ++ w.extractLsb' 0 8 = w := (extract_adjacent w 0 8 24).trans (extract_all w)
  rw [← h1] at h2
  exact h2

theorem wordAF_of_fields {w : CmdWord} (h : Format.af.reservedClear w = true) :
    wordAF (opField w) (addrField w) (dirField w) = w := by
  have h : w.extractLsb' 17 15 = 0 := by simpa [Format.reservedClear] using h
  have h0 : w.extractLsb' 17 15 ++ w.extractLsb' 16 1 = w.extractLsb' 16 16 := extract_adjacent w 16 1 15
  have h1 : w.extractLsb' 16 16 ++ w.extractLsb' 8 8 = w.extractLsb' 8 24 := extract_adjacent w 8 8 16
  have h2 : w.extractLsb' 8 24 ++ w.extractLsb' 0 8 = w := (extract_adjacent w 0 8 24).trans (extract_all w)
  rw [← h1, ← h0, h, ← dirField_bit] at h2
  exact h2

theorem wordAS_of_fields {w : CmdWord} (h : Format.as.reservedClear w = true) :
    wordAS (opField w) (addrField w) (dirField w) (ctrField w) = w := by
  have h : w.extractLsb' 20 12 = 0 := by simpa [Format.reservedClear] using h
  have h' : w.extractLsb' 20 12 ++ w.extractLsb' 17 3 = w.extractLsb' 17 15 := extract_adjacent w 17 3 12
  have h0 : w.extractLsb' 17 15 ++ w.extractLsb' 16 1 = w.extractLsb' 16 16 := extract_adjacent w 16 1 15
  have h1 : w.extractLsb' 16 16 ++ w.extractLsb' 8 8 = w.extractLsb' 8 24 := extract_adjacent w 8 8 16
  have h2 : w.extractLsb' 8 24 ++ w.extractLsb' 0 8 = w := (extract_adjacent w 0 8 24).trans (extract_all w)
  rw [← h1, ← h0, ← h', h, ← dirField_bit] at h2
  exact h2

/-- The opcode map read backwards (R69). -/
theorem ofByte_eq_some {b : Byte} {op : Opcode} : Opcode.ofByte b = some op ↔ b = op.byte := by
  constructor
  · intro h
    unfold Opcode.ofByte at h
    repeat' split at h
    all_goals first | (cases h; assumption) | cases h
  · rintro rfl
    cases op <;> rfl

/-- What decoding a command means (R72, R73). -/
theorem decode_eq_ok {c : Command} {i : Instr} : decode c = .ok i ↔
    ∃ op : Opcode, opField c.word = op.byte ∧ op.format.reservedClear c.word = true ∧
      (op.format.takesData = false → c.data = []) ∧ i = op.instr c := by
  unfold decode
  cases h : Opcode.ofByte (opField c.word) with
  | none =>
    constructor
    · intro h'; cases h'
    · rintro ⟨op, h1, -⟩
      rw [ofByte_eq_some.2 h1] at h
      cases h
  | some op =>
    have hop := ofByte_eq_some.1 h
    constructor
    · intro h'
      simp only at h'
      split at h'
      · cases h'
      · split at h'
        · cases h'
        · cases h'
          exact ⟨op, hop, by simp_all, by simp_all, rfl⟩
    · rintro ⟨op', h1, h2, h3, rfl⟩
      have : op = op' := by
        have := ofByte_eq_some.2 h1
        rw [h] at this
        exact Option.some.inj this
      subst this
      simp [h2]
      intro h4
      simp [h3 h4]

end Sys2Proof
end

