-- ==== Sys2Proof/Laws/Operands.lean ====
section
/-! SUPPORT. The operand checks the meanings make (Machine/Operands.lean) are the ranges of well-formedness (R74). -/

namespace Sys2Proof.Machine

theorem addrOk_iff {a : Byte} : addrOk a = true ↔ 1 ≤ a.toNat ∧ a.toNat ≤ 32 := by simp [addrOk]

theorem frmReadOk_iff {n : Nat} {a : Byte} : frmReadOk a = true ↔ (Instr.frmRead a).WellFormed n := by
  simp only [frmReadOk, addrOk_iff, Instr.WellFormed, Instr.malformed]
  split <;> simp_all

theorem frmWriteOk_iff {ps : Params} {a : Byte} {off : Half} {d : List Byte} :
    frmWriteOk ps a d = true ↔ (Instr.frmWrite a off d).WellFormed ps.dataMax := by
  simp only [frmWriteOk, dataOk, Bool.and_eq_true, addrOk_iff, decide_eq_true_eq, Instr.WellFormed, Instr.malformed]
  have hp : payloadMax = 245 := rfl
  split
  · simp; omega
  · split
    · simp; omega
    · split
      · simp; omega
      · simp; omega

theorem frmVerifyOk_iff {ps : Params} {a : Byte} {f : Dir} {d : List Byte} :
    frmVerifyOk ps d = true ↔ (Instr.frmVerify a f d).WellFormed ps.dataMax := by
  simp only [frmVerifyOk, dataOk, decide_eq_true_eq, Instr.WellFormed, Instr.malformed]
  split
  · simp; omega
  · simp; omega

theorem busExecOk_iff {ps : Params} {a : Byte} {f : Dir} {d : List Byte} :
    busExecOk ps a d = true ↔ (Instr.busExec a f d).WellFormed ps.dataMax := by
  simp only [busExecOk, dataOk, Bool.and_eq_true, addrOk_iff, decide_eq_true_eq, Instr.WellFormed, Instr.malformed]
  split
  · simp; omega
  · split
    · simp; omega
    · cases d with
      | nil => simp
      | cons b bs => simp at *; omega

/-- A select names a counter exactly if it is that counter's number (R68). -/
theorem counterOf_eq_some {c : BitVec 3} {k : Counter} : counterOf c = some k ↔ c.toNat =
    (match k with | .txn => 0 | .csum => 1 | .nodata => 2 | .proto => 3 | .hard => 4) := by
  revert c; cases k <;> decide

theorem counterOf_isSome {c : BitVec 3} : (counterOf c).isSome = true ↔ c.toNat ≤ 4 := by revert c; decide

theorem statReadCounter_isSome {n : Nat} {a : Byte} {d : Dir} {c : BitVec 3} :
    (statReadCounter a c).isSome = true ↔ (Instr.statRead a d c).WellFormed n := by
  simp only [statReadCounter, Instr.WellFormed, Instr.malformed]
  by_cases h : 1 ≤ a.toNat ∧ a.toNat ≤ 32
  · rw [if_pos (addrOk_iff.2 h), counterOf_isSome, if_neg (not_not_intro h)]
    split
    · simp; omega
    · simp; omega
  · rw [if_neg (fun h' => h (addrOk_iff.1 h')), if_pos h]
    simp

end Sys2Proof.Machine
end

