-- ==== Sys2Proof/Laws/State.lean ====
section
/-! SUPPORT. One lemma per field per state update, so that no later proof unfolds a record update. -/

namespace Sys2Proof.Machine

@[simp] theorem Port.setAcc_acc (x : Port) (acc : Acc) : (x.setAcc acc).acc = acc := rfl
@[simp] theorem Port.setAcc_state (x : Port) (acc : Acc) : (x.setAcc acc).state = x.state := rfl
@[simp] theorem Port.setAcc_cmd (x : Port) (acc : Acc) : (x.setAcc acc).cmd = x.cmd := rfl
@[simp] theorem Port.setAcc_crcHi (x : Port) (acc : Acc) : (x.setAcc acc).crcHi = acc.hi := rfl
@[simp] theorem Port.setAcc_crcLo (x : Port) (acc : Acc) : (x.setAcc acc).crcLo = acc.lo := rfl

section setPort

variable (s : State) (p : Nat) (x : Port)

@[simp] theorem State.setPort_ports : (s.setPort p x).ports = s.ports.set p x := rfl
@[simp] theorem State.setPort_lockOwner : (s.setPort p x).lockOwner = s.lockOwner := rfl
@[simp] theorem State.setPort_tState : (s.setPort p x).tState = s.tState := rfl
@[simp] theorem State.setPort_attempt : (s.setPort p x).attempt = s.attempt := rfl
@[simp] theorem State.setPort_rxbuf : (s.setPort p x).rxbuf = s.rxbuf := rfl
@[simp] theorem State.setPort_linkState : (s.setPort p x).linkState = s.linkState := rfl
@[simp] theorem State.setPort_stats : (s.setPort p x).stats = s.stats := rfl
@[simp] theorem State.setPort_params : (s.setPort p x).params = s.params := rfl
@[simp] theorem State.setPort_issuer : (s.setPort p x).issuer = s.issuer := rfl
@[simp] theorem State.setPort_inputs : (s.setPort p x).inputs = s.inputs := rfl
@[simp] theorem State.setPort_draws : (s.setPort p x).draws = s.draws := rfl
@[simp] theorem State.setPort_responses : (s.setPort p x).responses = s.responses := rfl
@[simp] theorem State.setPort_linkLog : (s.setPort p x).linkLog = s.linkLog := rfl

end setPort

section mapPort

variable (s : State) (p : Nat) (g : Port → Port)

@[simp] theorem State.mapPort_lockOwner : (s.mapPort p g).lockOwner = s.lockOwner := by unfold State.mapPort; split <;> rfl
@[simp] theorem State.mapPort_tState : (s.mapPort p g).tState = s.tState := by unfold State.mapPort; split <;> rfl
@[simp] theorem State.mapPort_attempt : (s.mapPort p g).attempt = s.attempt := by unfold State.mapPort; split <;> rfl
@[simp] theorem State.mapPort_rxbuf : (s.mapPort p g).rxbuf = s.rxbuf := by unfold State.mapPort; split <;> rfl
@[simp] theorem State.mapPort_linkState : (s.mapPort p g).linkState = s.linkState := by unfold State.mapPort; split <;> rfl
@[simp] theorem State.mapPort_stats : (s.mapPort p g).stats = s.stats := by unfold State.mapPort; split <;> rfl
@[simp] theorem State.mapPort_params : (s.mapPort p g).params = s.params := by unfold State.mapPort; split <;> rfl
@[simp] theorem State.mapPort_issuer : (s.mapPort p g).issuer = s.issuer := by unfold State.mapPort; split <;> rfl
@[simp] theorem State.mapPort_inputs : (s.mapPort p g).inputs = s.inputs := by unfold State.mapPort; split <;> rfl
@[simp] theorem State.mapPort_draws : (s.mapPort p g).draws = s.draws := by unfold State.mapPort; split <;> rfl
@[simp] theorem State.mapPort_responses : (s.mapPort p g).responses = s.responses := by unfold State.mapPort; split <;> rfl
@[simp] theorem State.mapPort_linkLog : (s.mapPort p g).linkLog = s.linkLog := by unfold State.mapPort; split <;> rfl
@[simp] theorem State.mapPort_ports : (s.mapPort p g).ports = s.ports.modify p g := by
  unfold State.mapPort; split <;> simp_all [List.modify_eq_set_getElem?, State.setPort]

end mapPort

section incStat

variable (s : State) (a : Nat) (d : Dir) (c : Counter)

@[simp] theorem State.incStat_ports : (s.incStat a d c).ports = s.ports := by unfold State.incStat; split <;> rfl
@[simp] theorem State.incStat_lockOwner : (s.incStat a d c).lockOwner = s.lockOwner := by unfold State.incStat; split <;> rfl
@[simp] theorem State.incStat_tState : (s.incStat a d c).tState = s.tState := by unfold State.incStat; split <;> rfl
@[simp] theorem State.incStat_attempt : (s.incStat a d c).attempt = s.attempt := by unfold State.incStat; split <;> rfl
@[simp] theorem State.incStat_rxbuf : (s.incStat a d c).rxbuf = s.rxbuf := by unfold State.incStat; split <;> rfl
@[simp] theorem State.incStat_linkState : (s.incStat a d c).linkState = s.linkState := by unfold State.incStat; split <;> rfl
@[simp] theorem State.incStat_params : (s.incStat a d c).params = s.params := by unfold State.incStat; split <;> rfl
@[simp] theorem State.incStat_issuer : (s.incStat a d c).issuer = s.issuer := by unfold State.incStat; split <;> rfl
@[simp] theorem State.incStat_inputs : (s.incStat a d c).inputs = s.inputs := by unfold State.incStat; split <;> rfl
@[simp] theorem State.incStat_draws : (s.incStat a d c).draws = s.draws := by unfold State.incStat; split <;> rfl
@[simp] theorem State.incStat_responses : (s.incStat a d c).responses = s.responses := by unfold State.incStat; split <;> rfl
@[simp] theorem State.incStat_linkLog : (s.incStat a d c).linkLog = s.linkLog := by unfold State.incStat; split <;> rfl

end incStat

section respond

variable (s : State) (p : Nat) (k : RespCode) (d : List Byte) (n : Byte)

@[simp] theorem State.respond_ports : (s.respond p k d n).ports = s.ports := rfl
@[simp] theorem State.respond_lockOwner : (s.respond p k d n).lockOwner = s.lockOwner := rfl
@[simp] theorem State.respond_tState : (s.respond p k d n).tState = s.tState := rfl
@[simp] theorem State.respond_attempt : (s.respond p k d n).attempt = s.attempt := rfl
@[simp] theorem State.respond_rxbuf : (s.respond p k d n).rxbuf = s.rxbuf := rfl
@[simp] theorem State.respond_linkState : (s.respond p k d n).linkState = s.linkState := rfl
@[simp] theorem State.respond_stats : (s.respond p k d n).stats = s.stats := rfl
@[simp] theorem State.respond_params : (s.respond p k d n).params = s.params := rfl
@[simp] theorem State.respond_issuer : (s.respond p k d n).issuer = s.issuer := rfl
@[simp] theorem State.respond_inputs : (s.respond p k d n).inputs = s.inputs := rfl
@[simp] theorem State.respond_draws : (s.respond p k d n).draws = s.draws := rfl
@[simp] theorem State.respond_responses : (s.respond p k d n).responses = ⟨p, k, d, n⟩ :: s.responses := rfl
@[simp] theorem State.respond_linkLog : (s.respond p k d n).linkLog = s.linkLog := rfl

end respond

section logLink

variable (s : State) (x : LinkAccess)

@[simp] theorem State.logLink_ports : (s.logLink x).ports = s.ports := rfl
@[simp] theorem State.logLink_lockOwner : (s.logLink x).lockOwner = s.lockOwner := rfl
@[simp] theorem State.logLink_tState : (s.logLink x).tState = s.tState := rfl
@[simp] theorem State.logLink_attempt : (s.logLink x).attempt = s.attempt := rfl
@[simp] theorem State.logLink_rxbuf : (s.logLink x).rxbuf = s.rxbuf := rfl
@[simp] theorem State.logLink_linkState : (s.logLink x).linkState = s.linkState := rfl
@[simp] theorem State.logLink_stats : (s.logLink x).stats = s.stats := rfl
@[simp] theorem State.logLink_params : (s.logLink x).params = s.params := rfl
@[simp] theorem State.logLink_issuer : (s.logLink x).issuer = s.issuer := rfl
@[simp] theorem State.logLink_inputs : (s.logLink x).inputs = s.inputs := rfl
@[simp] theorem State.logLink_draws : (s.logLink x).draws = s.draws := rfl
@[simp] theorem State.logLink_responses : (s.logLink x).responses = s.responses := rfl
@[simp] theorem State.logLink_linkLog : (s.logLink x).linkLog = x :: s.linkLog := rfl

end logLink

section release

variable (s : State) (p : Nat)

@[simp] theorem State.release_ports : (s.release p).ports = s.ports.modify p (fun x => { x with state := .idle }) := by simp [State.release]
@[simp] theorem State.release_lockOwner : (s.release p).lockOwner = none := by simp [State.release]
@[simp] theorem State.release_tState : (s.release p).tState = .tIdle := by simp [State.release]
@[simp] theorem State.release_attempt : (s.release p).attempt = 0 := by simp [State.release]
@[simp] theorem State.release_rxbuf : (s.release p).rxbuf = s.rxbuf := by simp [State.release]
@[simp] theorem State.release_linkState : (s.release p).linkState = s.linkState := by simp [State.release]
@[simp] theorem State.release_stats : (s.release p).stats = s.stats := by simp [State.release]
@[simp] theorem State.release_params : (s.release p).params = s.params := by simp [State.release]
@[simp] theorem State.release_issuer : (s.release p).issuer = s.issuer := by simp [State.release]
@[simp] theorem State.release_inputs : (s.release p).inputs = s.inputs := by simp [State.release]
@[simp] theorem State.release_draws : (s.release p).draws = s.draws := by simp [State.release]
@[simp] theorem State.release_responses : (s.release p).responses = s.responses := by simp [State.release]
@[simp] theorem State.release_linkLog : (s.release p).linkLog = s.linkLog := by simp [State.release]

end release

section grantTo

variable (s : State) (q : Nat)

@[simp] theorem State.grantTo_ports : (s.grantTo q).ports = s.ports.modify q (fun x => { x with state := .active }) := by simp [State.grantTo]
@[simp] theorem State.grantTo_lockOwner : (s.grantTo q).lockOwner = some q := by simp [State.grantTo]
@[simp] theorem State.grantTo_tState : (s.grantTo q).tState = .tSend := by simp [State.grantTo]
@[simp] theorem State.grantTo_attempt : (s.grantTo q).attempt = 0 := by simp [State.grantTo]
@[simp] theorem State.grantTo_rxbuf : (s.grantTo q).rxbuf = s.rxbuf := by simp [State.grantTo]
@[simp] theorem State.grantTo_linkState : (s.grantTo q).linkState = s.linkState := by simp [State.grantTo]
@[simp] theorem State.grantTo_stats : (s.grantTo q).stats = s.stats := by simp [State.grantTo]
@[simp] theorem State.grantTo_params : (s.grantTo q).params = s.params := by simp [State.grantTo]
@[simp] theorem State.grantTo_issuer : (s.grantTo q).issuer = s.issuer := by simp [State.grantTo]
@[simp] theorem State.grantTo_inputs : (s.grantTo q).inputs = s.inputs := by simp [State.grantTo]
@[simp] theorem State.grantTo_draws : (s.grantTo q).draws = s.draws := by simp [State.grantTo]
@[simp] theorem State.grantTo_responses : (s.grantTo q).responses = s.responses := by simp [State.grantTo]
@[simp] theorem State.grantTo_linkLog : (s.grantTo q).linkLog = s.linkLog := by simp [State.grantTo]

end grantTo

section initOpen

variable (s : State) (w : OpenAnswer)

@[simp] theorem State.initOpen_ports : (s.initOpen w).ports = s.ports := rfl
@[simp] theorem State.initOpen_lockOwner : (s.initOpen w).lockOwner = s.lockOwner := rfl
@[simp] theorem State.initOpen_tState : (s.initOpen w).tState = .tIdle := rfl
@[simp] theorem State.initOpen_attempt : (s.initOpen w).attempt = s.attempt := rfl
@[simp] theorem State.initOpen_rxbuf : (s.initOpen w).rxbuf = s.rxbuf := rfl
@[simp] theorem State.initOpen_linkState : (s.initOpen w).linkState = linkAfterOpen w := rfl
@[simp] theorem State.initOpen_stats : (s.initOpen w).stats = s.stats := rfl
@[simp] theorem State.initOpen_params : (s.initOpen w).params = s.params := rfl
@[simp] theorem State.initOpen_issuer : (s.initOpen w).issuer = s.issuer := rfl
@[simp] theorem State.initOpen_inputs : (s.initOpen w).inputs = s.inputs := rfl
@[simp] theorem State.initOpen_draws : (s.initOpen w).draws = s.draws := rfl
@[simp] theorem State.initOpen_responses : (s.initOpen w).responses = s.responses := rfl
@[simp] theorem State.initOpen_linkLog : (s.initOpen w).linkLog = .opening none w :: s.linkLog := rfl

end initOpen

section sendOnClosed

variable (s : State)

@[simp] theorem State.sendOnClosed_ports : (s.sendOnClosed).ports = s.ports := rfl
@[simp] theorem State.sendOnClosed_lockOwner : (s.sendOnClosed).lockOwner = s.lockOwner := rfl
@[simp] theorem State.sendOnClosed_tState : (s.sendOnClosed).tState = .tReconnect := rfl
@[simp] theorem State.sendOnClosed_attempt : (s.sendOnClosed).attempt = s.attempt := rfl
@[simp] theorem State.sendOnClosed_rxbuf : (s.sendOnClosed).rxbuf = s.rxbuf := rfl
@[simp] theorem State.sendOnClosed_linkState : (s.sendOnClosed).linkState = s.linkState := rfl
@[simp] theorem State.sendOnClosed_stats : (s.sendOnClosed).stats = s.stats := rfl
@[simp] theorem State.sendOnClosed_params : (s.sendOnClosed).params = s.params := rfl
@[simp] theorem State.sendOnClosed_issuer : (s.sendOnClosed).issuer = s.issuer := rfl
@[simp] theorem State.sendOnClosed_inputs : (s.sendOnClosed).inputs = s.inputs := rfl
@[simp] theorem State.sendOnClosed_draws : (s.sendOnClosed).draws = s.draws := rfl
@[simp] theorem State.sendOnClosed_responses : (s.sendOnClosed).responses = s.responses := rfl
@[simp] theorem State.sendOnClosed_linkLog : (s.sendOnClosed).linkLog = s.linkLog := rfl

end sendOnClosed

section softError

variable (s : State) (t : Txn) (e : VerifyError)

@[simp] theorem State.softError_ports : (s.softError t e).ports = s.ports := by simp [State.softError]
@[simp] theorem State.softError_lockOwner : (s.softError t e).lockOwner = s.lockOwner := by simp [State.softError]
@[simp] theorem State.softError_tState : (s.softError t e).tState = .tBackoff := by simp [State.softError]
@[simp] theorem State.softError_attempt : (s.softError t e).attempt = s.attempt + 1 := by simp [State.softError]
@[simp] theorem State.softError_rxbuf : (s.softError t e).rxbuf = s.rxbuf := by simp [State.softError]
@[simp] theorem State.softError_linkState : (s.softError t e).linkState = s.linkState := by simp [State.softError]
@[simp] theorem State.softError_stats : (s.softError t e).stats = (s.incStat t.a.toNat t.f e.bucket).stats := by simp [State.softError]
@[simp] theorem State.softError_params : (s.softError t e).params = s.params := by simp [State.softError]
@[simp] theorem State.softError_issuer : (s.softError t e).issuer = s.issuer := by simp [State.softError]
@[simp] theorem State.softError_inputs : (s.softError t e).inputs = s.inputs := by simp [State.softError]
@[simp] theorem State.softError_draws : (s.softError t e).draws = s.draws := by simp [State.softError]
@[simp] theorem State.softError_responses : (s.softError t e).responses = s.responses := by simp [State.softError]
@[simp] theorem State.softError_linkLog : (s.softError t e).linkLog = s.linkLog := by simp [State.softError]

end softError

section completeOk

variable (s : State) (t : Txn) (d : List Byte)

@[simp] theorem State.completeOk_ports : (s.completeOk t d).ports = s.ports.modify t.p (fun x => { x with state := .idle }) := by simp [State.completeOk]
@[simp] theorem State.completeOk_lockOwner : (s.completeOk t d).lockOwner = none := by simp [State.completeOk]
@[simp] theorem State.completeOk_tState : (s.completeOk t d).tState = .tIdle := by simp [State.completeOk]
@[simp] theorem State.completeOk_attempt : (s.completeOk t d).attempt = 0 := by simp [State.completeOk]
@[simp] theorem State.completeOk_rxbuf : (s.completeOk t d).rxbuf = s.rxbuf := by simp [State.completeOk]
@[simp] theorem State.completeOk_linkState : (s.completeOk t d).linkState = s.linkState := by simp [State.completeOk]
@[simp] theorem State.completeOk_stats : (s.completeOk t d).stats = (s.incStat t.a.toNat t.f .txn).stats := by simp [State.completeOk]
@[simp] theorem State.completeOk_params : (s.completeOk t d).params = s.params := by simp [State.completeOk]
@[simp] theorem State.completeOk_issuer : (s.completeOk t d).issuer = s.issuer := by simp [State.completeOk]
@[simp] theorem State.completeOk_inputs : (s.completeOk t d).inputs = s.inputs := by simp [State.completeOk]
@[simp] theorem State.completeOk_draws : (s.completeOk t d).draws = s.draws := by simp [State.completeOk]
@[simp] theorem State.completeOk_responses : (s.completeOk t d).responses = ⟨t.p, .ok, d, countByte s.attempt⟩ :: s.responses := by simp [State.completeOk]
@[simp] theorem State.completeOk_linkLog : (s.completeOk t d).linkLog = s.linkLog := by simp [State.completeOk]

end completeOk

section hardFail

variable (s : State) (t : Txn)

@[simp] theorem State.hardFail_ports : (s.hardFail t).ports = s.ports.modify t.p (fun x => { x with state := .idle }) := by simp [State.hardFail]
@[simp] theorem State.hardFail_lockOwner : (s.hardFail t).lockOwner = none := by simp [State.hardFail]
@[simp] theorem State.hardFail_tState : (s.hardFail t).tState = .tIdle := by simp [State.hardFail]
@[simp] theorem State.hardFail_attempt : (s.hardFail t).attempt = 0 := by simp [State.hardFail]
@[simp] theorem State.hardFail_rxbuf : (s.hardFail t).rxbuf = s.rxbuf := by simp [State.hardFail]
@[simp] theorem State.hardFail_linkState : (s.hardFail t).linkState = s.linkState := by simp [State.hardFail]
@[simp] theorem State.hardFail_stats : (s.hardFail t).stats = ((s.incStat t.a.toNat t.f .hard).incStat t.a.toNat t.f .txn).stats := by simp [State.hardFail]
@[simp] theorem State.hardFail_params : (s.hardFail t).params = s.params := by simp [State.hardFail]
@[simp] theorem State.hardFail_issuer : (s.hardFail t).issuer = s.issuer := by simp [State.hardFail]
@[simp] theorem State.hardFail_inputs : (s.hardFail t).inputs = s.inputs := by simp [State.hardFail]
@[simp] theorem State.hardFail_draws : (s.hardFail t).draws = s.draws := by simp [State.hardFail]
@[simp] theorem State.hardFail_responses : (s.hardFail t).responses = ⟨t.p, .hardFailure, [], countByte maxAttempts⟩ :: s.responses := by simp [State.hardFail]
@[simp] theorem State.hardFail_linkLog : (s.hardFail t).linkLog = s.linkLog := by simp [State.hardFail]

end hardFail

section resetBlock

variable (s : State)

@[simp] theorem State.resetBlock_ports : (s.resetBlock).ports = List.replicate s.params.nPorts Port.reset := rfl
@[simp] theorem State.resetBlock_lockOwner : (s.resetBlock).lockOwner = none := rfl
@[simp] theorem State.resetBlock_tState : (s.resetBlock).tState = .tInit := rfl
@[simp] theorem State.resetBlock_attempt : (s.resetBlock).attempt = 0 := rfl
@[simp] theorem State.resetBlock_rxbuf : (s.resetBlock).rxbuf = [] := rfl
@[simp] theorem State.resetBlock_linkState : (s.resetBlock).linkState = .closed := rfl
@[simp] theorem State.resetBlock_stats : (s.resetBlock).stats = List.replicate statCount 0 := rfl
@[simp] theorem State.resetBlock_params : (s.resetBlock).params = s.params := rfl
@[simp] theorem State.resetBlock_issuer : (s.resetBlock).issuer = s.issuer := rfl
@[simp] theorem State.resetBlock_inputs : (s.resetBlock).inputs = s.inputs := rfl
@[simp] theorem State.resetBlock_draws : (s.resetBlock).draws = s.draws := rfl
@[simp] theorem State.resetBlock_responses : (s.resetBlock).responses = s.responses := rfl
@[simp] theorem State.resetBlock_linkLog : (s.resetBlock).linkLog = s.linkLog := rfl

end resetBlock

end Sys2Proof.Machine
end

