-- ==== Sys2Proof/Laws/Ops.lean ====
section
/-! SUPPORT. What each shared operation can do, said once: the counters (R27), the issuing port (R33), the transaction the
transport reads (spec/42_transport.md section 4), and everything `exec` can answer. -/

namespace Sys2Proof.Machine

theorem dirIndex_lt (d : Dir) : dirIndex d < 2 := by cases d <;> decide

theorem ctrIndex_lt (c : Counter) : ctrIndex c < 5 := by cases c <;> decide

theorem dirIndex_injective {d e : Dir} (h : dirIndex d = dirIndex e) : d = e := by
  cases d <;> cases e <;> first | rfl | simp [dirIndex] at h

theorem ctrIndex_injective {c k : Counter} (h : ctrIndex c = ctrIndex k) : c = k := by
  cases c <;> cases k <;> first | rfl | simp [ctrIndex] at h

theorem statIndex_eq_some {a : Nat} {d : Dir} {c : Counter} {i : Nat} :
    statIndex a d c = some i ↔ (1 ≤ a ∧ a ≤ 32) ∧ ((a - 1) * 2 + dirIndex d) * 5 + ctrIndex c = i := by
  simp [statIndex]

theorem statIndex_lt {a : Nat} {d : Dir} {c : Counter} {i : Nat} (h : statIndex a d c = some i) : i < statCount := by
  have := statIndex_eq_some.1 h
  have := dirIndex_lt d
  have := ctrIndex_lt c
  unfold statCount
  omega

/-- Different counters stand at different places (R27). -/
theorem statIndex_injective {a b : Nat} {d e : Dir} {c k : Counter} {i : Nat} (h : statIndex a d c = some i)
    (h' : statIndex b e k = some i) : a = b ∧ d = e ∧ c = k := by
  have ha := statIndex_eq_some.1 h
  have hb := statIndex_eq_some.1 h'
  have := dirIndex_lt d
  have := dirIndex_lt e
  have := ctrIndex_lt c
  have := ctrIndex_lt k
  exact ⟨by omega, dirIndex_injective (by omega), ctrIndex_injective (by omega)⟩

theorem statIndex_isSome {a : Nat} {d : Dir} {c : Counter} (h1 : 1 ≤ a) (h2 : a ≤ 32) :
    ∃ i, statIndex a d c = some i := by simp [statIndex, h1, h2]

@[simp] theorem incStat_stats_length (s : State) (a : Nat) (d : Dir) (c : Counter) :
    (s.incStat a d c).stats.length = s.stats.length := by unfold State.incStat; split <;> simp

/-- A counter after its own increment (R20, R159). -/
theorem incStat_stat_same {s : State} {a : Nat} {d : Dir} {c : Counter} (hl : s.stats.length = statCount)
    (h1 : 1 ≤ a) (h2 : a ≤ 32) : (s.incStat a d c).stat a d c = satInc s.params.ctrW (s.stat a d c) := by
  obtain ⟨i, hi⟩ := statIndex_isSome (d := d) (c := c) h1 h2
  have := statIndex_lt hi
  simp [State.incStat, State.stat, hi, List.getD, hl, this]

/-- A counter after another one's increment (R159: "increments exactly one counter"). -/
theorem incStat_stat_other {s : State} {a b : Nat} {d e : Dir} {c k : Counter} (h : ¬(a = b ∧ d = e ∧ c = k)) :
    (s.incStat a d c).stat b e k = s.stat b e k := by
  cases hi : statIndex a d c with
  | none => simp [State.incStat, hi]
  | some i =>
    cases hj : statIndex b e k with
    | none => simp [State.stat, hj]
    | some j =>
      have : i ≠ j := fun hij => h (statIndex_injective hi (hij ▸ hj))
      simp [State.incStat, State.stat, hi, hj, List.getElem?_set_ne this]

theorem satInc_le {w v : Nat} (h : v ≤ 2 ^ w - 1) : satInc w v ≤ 2 ^ w - 1 := by unfold satInc; split <;> omega

theorem le_satInc (w v : Nat) : v ≤ satInc w v := by unfold satInc; split <;> omega

/-- Writing back what a port holds changes nothing. -/
theorem setPort_self {s : State} {p : Nat} {x : Port} (h : s.ports[p]? = some x) : s.setPort p x = s := by
  obtain ⟨hp, rfl⟩ := List.getElem?_eq_some_iff.1 h
  simp [State.setPort]

/-- A meaning runs exactly for a port that exists (R33). -/
theorem onIssuer_next {s t : State} {k : Port → Host.Outcome State Fault Refusal} (h : onIssuer s k = .next t) :
    ∃ x, s.ports[s.issuer]? = some x ∧ k x = .next t := by
  unfold onIssuer at h
  split at h
  · exact ⟨_, ‹_›, h⟩
  · cases h

theorem onIssuer_port {s : State} {x : Port} (h : s.ports[s.issuer]? = some x)
    (k : Port → Host.Outcome State Fault Refusal) : onIssuer s k = k x := by simp [onIssuer, h]

/-- The transaction the transport works for is the lock owner's command (spec/42_transport.md section 4). -/
theorem txn_eq_some {s : State} {t : Txn} (h : s.txn? = some t) :
    s.lockOwner = some t.p ∧ ∃ x, s.ports[t.p]? = some x ∧ t.a = addrField x.cmd.word ∧ t.f = dirField x.cmd.word ∧
      t.frame = x.cmd.data := by
  unfold State.txn? at h
  split at h
  · cases h
  · split at h
    · cases h
    · cases h
      exact ⟨‹_›, _, ‹_›, rfl, rfl, rfl⟩

theorem txn_isSome {s : State} {p : Nat} (h : s.lockOwner = some p) (hp : p < s.ports.length) :
    ∃ t, s.txn? = some t ∧ t.p = p := by
  refine ⟨⟨p, addrField s.ports[p].cmd.word, dirField s.ports[p].cmd.word, s.ports[p].cmd.data⟩, ?_, rfl⟩
  simp [State.txn?, h, hp]

/-- Everything a command can do at acceptance (R153): answer at once, changing at most the issuer's accumulator, or,
for BUS.EXEC with legal operands, leave the issuer waiting with the command in `PORT_CMD`. -/
theorem exec_next {i : Instr} {s t : State} (h : exec i s = .next t) :
    ∃ x, s.ports[s.issuer]? = some x ∧
      ((∃ acc code data, t = (s.setPort s.issuer (x.setAcc acc)).respond s.issuer code data 0) ∨
        (∃ a f frame, i = .busExec a f frame ∧ busExecOk s.params a frame = true ∧
          t = s.setPort s.issuer { x with state := .waiting, cmd := encode i })) := by
  have stay : ∀ {x : Port} {code : RespCode} {data : List Byte}, s.ports[s.issuer]? = some x →
      s.answer code data = .next t →
      ∃ acc code data, t = (s.setPort s.issuer (x.setAcc acc)).respond s.issuer code data 0 := by
    intro x code data hx ht
    refine ⟨x.acc, code, data, ?_⟩
    have hself : x.setAcc x.acc = x := rfl
    rw [hself, setPort_self hx]
    simpa [State.answer] using ht.symm
  have now : ∀ {x : Port} {acc : Acc}, (s.setPort s.issuer (x.setAcc acc)).answer .ok [] = .next t →
      ∃ acc code data, t = (s.setPort s.issuer (x.setAcc acc)).respond s.issuer code data 0 := by
    intro x acc ht
    exact ⟨acc, .ok, [], by simpa [State.answer] using ht.symm⟩
  cases i with
  | crcInit => obtain ⟨x, hx, h⟩ := onIssuer_next h; exact ⟨x, hx, .inl (now h)⟩
  | crcUpdate b => obtain ⟨x, hx, h⟩ := onIssuer_next h; exact ⟨x, hx, .inl (now h)⟩
  | crcFinish => obtain ⟨x, hx, h⟩ := onIssuer_next h; exact ⟨x, hx, .inl (stay hx h)⟩
  | frmRead a => obtain ⟨x, hx, h⟩ := onIssuer_next h; split at h <;> exact ⟨x, hx, .inl (stay hx h)⟩
  | frmWrite a off d => obtain ⟨x, hx, h⟩ := onIssuer_next h; split at h <;> exact ⟨x, hx, .inl (stay hx h)⟩
  | frmVerify a f d =>
    obtain ⟨x, hx, h⟩ := onIssuer_next h
    split at h
    · split at h <;> exact ⟨x, hx, .inl (stay hx h)⟩
    · exact ⟨x, hx, .inl (stay hx h)⟩
  | busExec a f d =>
    obtain ⟨x, hx, h⟩ := onIssuer_next h
    split at h
    · exact ⟨x, hx, .inr ⟨a, f, d, rfl, ‹_›, by simpa using h.symm⟩⟩
    · exact ⟨x, hx, .inl (stay hx h)⟩
  | statRead a d c => obtain ⟨x, hx, h⟩ := onIssuer_next h; split at h <;> exact ⟨x, hx, .inl (stay hx h)⟩

end Sys2Proof.Machine
end

