-- ==== Sys2Proof/Laws/Schedule.lean ====
section
/-! SUPPORT. What a step is (R150): which event it takes, and that it is the move of that event. -/

namespace Sys2Proof.Machine

/-- The event taken can happen, is one of the list, and the others keep their order. -/
theorem firstEnabled_some {s : State} {es others : List Event} {e : Event} (h : firstEnabled s es = some (e, others)) :
    s.enabled e = true ∧ ∃ before after, es = before ++ e :: after ∧ others = before ++ after ∧
      ∀ x ∈ before, s.enabled x = false := by
  induction es generalizing others with
  | nil => cases h
  | cons x rest ih =>
    unfold firstEnabled at h
    split at h
    · cases h; exact ⟨‹_›, [], rest, rfl, rfl, by simp⟩
    · split at h
      · cases h
        obtain ⟨he, before, after, h1, h2, h3⟩ := ih ‹_›
        exact ⟨he, x :: before, after, by simp [h1], by simp [h2], by simp_all⟩
      · cases h

theorem firstEnabled_none {s : State} {es : List Event} : firstEnabled s es = none ↔ ∀ e ∈ es, s.enabled e = false := by
  induction es with
  | nil => simp [firstEnabled]
  | cons x rest ih =>
    unfold firstEnabled
    by_cases hx : s.enabled x = true
    · simp [hx]
    · cases h : firstEnabled s rest with
      | none => simp_all
      | some v => simp_all

/-- An event that can happen and stands first is the one taken. -/
theorem firstEnabled_head {s : State} {e : Event} {rest : List Event} (h : s.enabled e = true) :
    firstEnabled s (e :: rest) = some (e, rest) := by simp [firstEnabled, h]

theorem step_head {s : State} {e : Event} {rest : List Event} (hi : s.inputs = e :: rest) (h : s.enabled e = true) :
    step s = perform e { s with inputs := rest } := by simp [step, scheduleStep, hi, firstEnabled_head h]

/-- A step takes the first listed event that can happen; else the transport's own move that can; else only the draw
counter moves. -/
theorem step_cases (s : State) :
    (∃ e others, firstEnabled s s.inputs = some (e, others) ∧ s.enabled e = true ∧
        step s = perform e { s with inputs := others }) ∨
      (firstEnabled s s.inputs = none ∧ ∃ e, s.ownMove = some e ∧ s.enabled e = true ∧
        step s = perform e { s with draws := s.draws + 1 }) ∨
      (firstEnabled s s.inputs = none ∧ step s = .next { s with draws := s.draws + 1 }) := by
  unfold step scheduleStep
  split
  · exact .inl ⟨_, _, ‹_›, (firstEnabled_some ‹_›).1, rfl⟩
  · split
    · split
      · exact .inr (.inl ⟨‹_›, _, ‹_›, ‹_›, rfl⟩)
      · exact .inr (.inr ⟨‹_›, rfl⟩)
    · exact .inr (.inr ⟨‹_›, rfl⟩)

/-- Whether a move can happen depends on the block alone. -/
@[simp] theorem enabled_inputs (s : State) (es : List Event) (e : Event) :
    ({ s with inputs := es } : State).enabled e = s.enabled e := by cases e <;> rfl

@[simp] theorem enabled_draws (s : State) (n : Nat) (e : Event) :
    ({ s with draws := n } : State).enabled e = s.enabled e := by cases e <;> rfl

theorem onTxn_some {s : State} {t : Txn} (h : s.txn? = some t) (k : Txn → State) : s.onTxn k = k t := by
  simp [State.onTxn, h]

end Sys2Proof.Machine
end

