-- ==== Sys2Proof/Laws/Transport.lean ====
section
/-! SUPPORT. Readers of a port as statements about its registers, the two ways an attempt ends, and the step as a move. -/

namespace Sys2Proof.Machine

theorem portState?_eq_some {s : State} {p : Nat} {st : PortState} :
    s.portState? p = some st ↔ ∃ x, s.ports[p]? = some x ∧ x.state = st := by
  unfold State.portState?
  split <;> simp_all

theorem cmd?_eq_some {s : State} {p : Nat} {c : Command} :
    s.cmd? p = some c ↔ ∃ x, s.ports[p]? = some x ∧ x.cmd = c := by
  unfold State.cmd?
  split <;> simp_all

theorem crc?_eq_some {s : State} {p : Nat} {hi lo : Byte} :
    s.crc? p = some (hi, lo) ↔ ∃ x, s.ports[p]? = some x ∧ x.crcHi = hi ∧ x.crcLo = lo := by
  unfold State.crc?
  split <;> simp_all

/-- The next attempt while one is left (R161, R162). -/
theorem nextAttempt_retry {s : State} (t : Txn) (h : s.attempt < maxAttempts) :
    s.nextAttempt t = { s with tState := .tSend } := by simp [State.nextAttempt, h]

/-- The hard failure when none is left (R163). -/
theorem nextAttempt_hardFail {s : State} (t : Txn) (h : ¬ s.attempt < maxAttempts) : s.nextAttempt t = s.hardFail t := by
  simp [State.nextAttempt, h]

theorem checkReply_ok {s : State} {t : Txn} {payload : List Byte}
    (h : verify s.params.crcTable t.a t.f s.rxbuf = .ok payload) : s.checkReply t = s.completeOk t payload := by
  simp [State.checkReply, h]

theorem checkReply_err {s : State} {t : Txn} {e : VerifyError}
    (h : verify s.params.crcTable t.a t.f s.rxbuf = .err e) : s.checkReply t = s.softError t e := by
  simp [State.checkReply, h]

/-- The transport's own move is one of its transitions, never a delivery or a reset. -/
theorem ownMove_cases {s : State} {e : Event} (h : s.ownMove = some e) :
    (∃ w, e = .linkOpen w) ∨ (∃ q, e = .grant q) ∨ e = .sendClosed ∨ (∃ w, e = .linkWrite w) ∨ (∃ w, e = .linkRead w) ∨
      e = .check ∨ e = .backoffEnd := by
  unfold State.ownMove State.ownGrant at h
  revert h
  repeat' split
  all_goals simp [Option.map_eq_some_iff]
  all_goals intros
  all_goals subst_vars
  all_goals simp

/-- A step that takes a reset takes a listed one: the transport never resets the block by itself. -/
theorem taken_reset {s : State} (h : s.taken = some .reset) : ∃ es, firstEnabled s s.inputs = some (.reset, es) := by
  unfold State.taken at h
  split at h
  · cases h; exact ⟨_, ‹_›⟩
  · have hm : s.ownMove = some .reset := (Option.filter_eq_some_iff.1 h).1
    rcases ownMove_cases hm with ⟨_, h⟩ | ⟨_, h⟩ | h | ⟨_, h⟩ | ⟨_, h⟩ | h | h <;> cases h

/-- The step makes the move of the event it takes; else only the draw counter moves. -/
theorem step_of_taken (s : State) :
    (∃ e es n, s.taken = some e ∧ s.enabled e = true ∧ step s = perform e { s with inputs := es, draws := n } ∧
        (firstEnabled s s.inputs = some (e, es) ∨ (firstEnabled s s.inputs = none ∧ es = s.inputs))) ∨
      (s.taken = none ∧ step s = .next { s with draws := s.draws + 1 }) := by
  unfold State.taken step scheduleStep
  cases hf : firstEnabled s s.inputs with
  | some x => exact .inl ⟨x.1, x.2, s.draws, rfl, (firstEnabled_some hf).1, rfl, .inl rfl⟩
  | none =>
    cases hm : s.ownMove with
    | none => exact .inr ⟨rfl, rfl⟩
    | some e =>
      by_cases he : s.enabled e = true
      · exact .inl ⟨e, s.inputs, s.draws + 1, by simp [Option.filter, he], he, by simp [he], .inr ⟨rfl, rfl⟩⟩
      · exact .inr ⟨by simp [Option.filter, he], by simp [he]⟩

/-- A step is the move of one event that can happen, at a state that differs only in what the environment offers and has
drawn; else only the draw counter moves. -/
theorem step_is_a_move {s s' : State} (h : step s = .next s') :
    (∃ e es n, s.enabled e = true ∧ (e ∈ s.inputs ∨ s.ownMove = some e) ∧ (∀ x ∈ s.inputs, x ∈ es ∨ x = e) ∧
        (∀ x ∈ es, x ∈ s.inputs) ∧ perform e { s with inputs := es, draws := n } = .next s') ∨
      s' = { s with draws := s.draws + 1 } := by
  rcases step_cases s with ⟨e, es, hf, he, hs⟩ | ⟨-, e, hm, he, hs⟩ | ⟨-, hs⟩
  · obtain ⟨-, before, after, h1, h2, -⟩ := firstEnabled_some hf
    refine .inl ⟨e, es, s.draws, he, .inl (by simp [h1]), ?_, ?_, hs ▸ h⟩
    · intro x hx; simp only [h1, h2, List.mem_append, List.mem_cons] at *; tauto
    · intro x hx; simp only [h1, h2, List.mem_append, List.mem_cons] at *; tauto
  · exact .inl ⟨e, s.inputs, s.draws + 1, he, .inr hm, fun _ hx => .inl hx, fun _ hx => hx, hs ▸ h⟩
  · rw [hs] at h; cases h; exact .inr rfl

end Sys2Proof.Machine
end

