-- ==== Sys2Proof/Tests/Slice0.lean ====
section
/-! SUPPORT. Tests and witnesses. The expected values come from spec/ (its worked frames, its test vectors, its encoding
tables); a test's docstring names the place. A theorem `witness_<Name>` shows a concrete state and operands that meet the
hypotheses of `Obligations.<Name>` together. -/

namespace Sys2Proof.Tests

open Sys2Proof Sys2Proof.Machine

/-! States used below. -/

/-- Two ports, the other parameters at the spec's defaults. -/
def twoPorts : Params := { defaultParams with nPorts := 2, nPorts_pos := by decide }

/-- The transport idle with an open link, and these events offered. -/
def idleState (es : List Event) : State :=
  { State.resetWith twoPorts with tState := .tIdle, linkState := .opened, inputs := es }

/-- The read-all request of address 5 (R75). -/
def requestFive : List Byte := [0x05, 0x0A, 0x81, 0x00, 0x00, 0x00, 0xFF, 0xFF, 0x41, 0x06]

/-- BUS.EXEC 5, rd with that request. -/
def execFive : Command := ⟨0x00000520, requestFive⟩

/-- Port 0 waits for the lock with that command. -/
def waitingState (es : List Event) : State :=
  { idleState es with ports := [{ Port.reset with state := .waiting, cmd := execFive }, Port.reset] }

/-- Port 0's transaction holds the bus, the transport stands at ts after att failed attempts. -/
def busyState (ts : TState) (att : Nat) (es : List Event) : State :=
  { idleState es with
    ports := [{ Port.reset with state := .active, cmd := execFive }, Port.reset], lockOwner := some 0, tState := ts,
    attempt := att }

/-- RD5 of spec/95_test_vectors.md: a read-all reply from address 5 with three data bytes. -/
def replyFive : List Byte := [0x81, 0x0E, 0x00, 0x05, 0x00, 0x00, 0x00, 0x03, 0x00, 0x01, 0x02, 0x03, 0x78, 0x86]

/-- ACK3 of spec/95_test_vectors.md: the write reply from address 3. -/
def replyThree : List Byte := [0x81, 0x07, 0x00, 0x03, 0x01, 0xD2, 0x8D]

/-- The outcome is that next state. -/
def nextIs (o : Host.Outcome State Fault Refusal) (t : State) : Bool :=
  match o with
  | .next u => decide (u = t)
  | _ => false

theorem next_of_nextIs {o : Host.Outcome State Fault Refusal} {t : State} (h : nextIs o t = true) : o = .next t := by
  unfold nextIs at h
  split at h
  · rw [of_decide_eq_true h]
  · cases h

/-- A send and a grant, each with its next state. -/
theorem send_step : step (busyState .tSend 0 [.linkWrite .ok]) =
    .next { busyState .tRecv 0 [] with linkLog := [.write 0 requestFive .ok] } :=
  next_of_nextIs (by decide +kernel)

theorem grant_step (es : List Event) : step (waitingState (.grant 0 :: es)) = .next (busyState .tSend 0 es) := rfl

/-- CRC.INIT of port 0. -/
theorem init_exec : exec .crcInit (idleState []) = .next ((idleState []).respond 0 .ok [] 0) := rfl

/-- The newest response. -/
def answered (o : Host.Outcome State Fault Refusal) : Option Response :=
  match o with
  | .next t => t.responses.head?
  | _ => none

/-- One state field of the next state. -/
def after {α : Type} (o : Host.Outcome State Fault Refusal) (read : State → Option α) : Option α :=
  match o with
  | .next t => read t
  | _ => none

/-! Well-formedness: each check refuses an ill-formed term (R74). -/

theorem test_wf_address_zero : (Instr.frmRead 0).malformed 255 = some .address := by decide
theorem test_wf_address_above : (Instr.busExec 33 .read [1]).malformed 255 = some .address := by decide
theorem test_wf_payload : (Instr.frmWrite 1 0 (List.replicate 246 0)).malformed 255 = some .payloadTooLong := by
  decide +kernel
theorem test_wf_data : (Instr.frmVerify 1 .read (List.replicate 256 0)).malformed 255 = some .dataTooLong := by
  decide +kernel
theorem test_wf_empty_frame : (Instr.busExec 5 .read []).malformed 255 = some .emptyFrame := by decide
theorem test_wf_select : (Instr.statRead 5 .read 5).malformed 255 = some .counterSelect := by decide
theorem test_wf_accepts : (Instr.frmWrite 32 0xFFFF (List.replicate 245 0)).WellFormed 255 := by decide +kernel

/-! Decoding: words written bit by bit from R63 to R69, one per constructor. -/

/-- format N: 24 zero bits, OP 00000001 -/
theorem test_decode_crcInit : decode ⟨0b00000000000000000000000000000001, []⟩ = .ok .crcInit := by rfl
/-- format B: 16 zero bits, IMM8 10000001, OP 00000010 -/
theorem test_decode_crcUpdate : decode ⟨0b00000000000000001000000100000010, []⟩ = .ok (.crcUpdate 0x81) := by rfl
/-- format N: 24 zero bits, OP 00000011 -/
theorem test_decode_crcFinish : decode ⟨0b00000000000000000000000000000011, []⟩ = .ok .crcFinish := by rfl
/-- format A: 16 zero bits, ADDR 00000101, OP 00010000 -/
theorem test_decode_frmRead : decode ⟨0b00000000000000000000010100010000, []⟩ = .ok (.frmRead 5) := by rfl
/-- format AO: OFF16 0000000000010010, ADDR 00000011, OP 00010001 -/
theorem test_decode_frmWrite : decode ⟨0b00000000000100100000001100010001, [22]⟩ = .ok (.frmWrite 3 18 [22]) := by rfl
/-- format AF: 15 zero bits, F 1, ADDR 00000011, OP 00010010 -/
theorem test_decode_frmVerify : decode ⟨0b00000000000000010000001100010010, [7]⟩ = .ok (.frmVerify 3 .write [7]) := by rfl
/-- format AF: 15 zero bits, F 0, ADDR 00100000, OP 00100000 -/
theorem test_decode_busExec : decode ⟨0b00000000000000000010000000100000, [1]⟩ = .ok (.busExec 32 .read [1]) := by rfl
/-- format AS: 12 zero bits, C 100, D 1, ADDR 00000101, OP 00110000 -/
theorem test_decode_statRead : decode ⟨0b00000000000010010000010100110000, []⟩ = .ok (.statRead 5 .write 4) := by rfl
/-- R73, R72 -/
theorem test_decode_rejects : decode ⟨0x00000004, []⟩ = .error .unassignedOpcode ∧
    decode ⟨0x00000101, []⟩ = .error .reservedBits ∧ decode ⟨0x00020520, [1]⟩ = .error .reservedBits ∧
    decode ⟨0x00000510, [1]⟩ = .error .unexpectedData := ⟨rfl, rfl, rfl, rfl⟩
/-- R81's worked encodings, from their text; the braces are characters 123 and 125. -/
theorem test_assembler :
    (assembleLine ("FRM.WRITE 3, 18, ".toList ++ [Char.ofNat 123] ++ "22".toList ++ [Char.ofNat 125])).map
        (fun l => l.items.map (AsmItem.command [])) = some [⟨0x00120311, [22]⟩] ∧
      (assembleLine "STAT.READ 5, wr, hard".toList).map (fun l => l.items.map (AsmItem.command [])) =
        some [⟨0x00090530, []⟩] := by decide +kernel

/-! The eight commands, on port 0. -/

/-- R110: the accumulator takes the seed. -/
theorem test_crcInit : after (exec .crcInit { idleState [] with ports := [{ Port.reset with crcHi := 1, crcLo := 2 }] })
    (·.crc? 0) = some (0xFF, 0xFF) := by decide +kernel
/-- R106: the check value 0x29B1 of "123456789", low byte first. -/
theorem test_crcUpdate : answered (execAll (.crcInit :: [0x31, 0x32, 0x33, 0x34, 0x35, 0x36, 0x37, 0x38, 0x39].map
    .crcUpdate ++ [.crcFinish]) (idleState [])) = some ⟨0, .ok, [0xB1, 0x29], 0⟩ := by decide +kernel
/-- R112: low byte first. -/
theorem test_crcFinish : answered (exec .crcFinish { idleState [] with ports := [{ Port.reset with crcLo := 2 }] }) =
    some ⟨0, .ok, [2, 0xFF], 0⟩ := by decide +kernel
/-- T-FRM-2. -/
theorem test_frmRead : answered (exec (.frmRead 5) (idleState [])) = some ⟨0, .ok, requestFive, 0⟩ := by decide +kernel
/-- T-FRM-4. -/
theorem test_frmWrite : answered (exec (.frmWrite 3 18 [0x16]) (idleState [])) =
    some ⟨0, .ok, [0x03, 0x0B, 0x81, 0x01, 0x12, 0x00, 0x01, 0x00, 0x16, 0xBF, 0xB0], 0⟩ := by decide +kernel
/-- V14 of spec/95_test_vectors.md: reply RD5. -/
theorem test_frmVerify : answered (exec (.frmVerify 5 .read replyFive) (idleState [])) = some ⟨0, .ok, [1, 2, 3], 0⟩ := by
  decide +kernel
/-- V6: a write reply with a wrong trailer. -/
theorem test_frmVerify_checksum : answered (exec (.frmVerify 3 .write [0x81, 0x07, 0x00, 0x03, 0x01, 0xD2, 0x8C])
    (idleState [])) = some ⟨0, .checksum, [], 0⟩ := by decide +kernel
/-- V3, V4, V4b, V7, V8, V9, V10, V11, V12, V13, V15, V17, V21, V22 of spec/95_test_vectors.md. -/
theorem test_verify_vectors : ∀ x ∈ ([
    (5, .read, [0x81, 0x59, 0x60], .err .protocolViolation),
    (5, .read, [0x00, 0xF0, 0xE1], .err .protocolViolation),
    (5, .read, [0x81, 0x04, 0x22, 0x75], .err .protocolViolation),
    (3, .write, [0x81, 0x07, 0x00, 0x04, 0x01, 0x45, 0x14], .err .protocolViolation),
    (3, .write, [0xA0, 0x07, 0x00, 0x03, 0x01, 0x37, 0x2F], .ok []),
    (3, .write, [0x82, 0x07, 0x00, 0x03, 0x01, 0x00, 0x63], .err .protocolViolation),
    (3, .write, [0x81, 0x07, 0x00, 0x03, 0x02, 0xB1, 0xBD], .err .protocolViolation),
    (3, .read, [0x81, 0x07, 0x00, 0x03, 0x01, 0xD2, 0x8D], .err .protocolViolation),
    (3, .write, [0x81, 0x08, 0x00, 0x03, 0x01, 0x00, 0xDC, 0xF7], .err .protocolViolation),
    (5, .read, [0x81, 0x0D, 0x00, 0x05, 0x00, 0x00, 0x00, 0x03, 0x00, 0x01, 0x02, 0x03, 0x82, 0xFE], .err .protocolViolation),
    (5, .read, [0x81, 0x0B, 0x00, 0x05, 0x00, 0x00, 0x00, 0x00, 0x00, 0x4D, 0xD9], .ok []),
    (5, .read, [0x81, 0x07, 0x00, 0x04, 0x01, 0x45, 0x00], .err .checksumMismatch),
    (3, .read, [0x81, 0x07, 0x00, 0x03, 0x00, 0xF3, 0x9D], .ok []),
    (3, .write, [0x81, 0x07, 0x00, 0x03, 0x01, 0xD2, 0x8D], .ok [])] : List (Byte × Dir × List Byte × VerifyResult)),
    verify defaultCrcTable x.1 x.2.1 x.2.2.1 = x.2.2.2 := by decide +kernel
/-- T-CRC-3 rows 1, 3, 4, 7 and 13 of spec/95_test_vectors.md. -/
theorem test_crc16_vectors : ∀ x ∈ ([([], [0xFF, 0xFF]), ([0x41], [0x15, 0xB9]), ([0, 0], [0x0F, 0x1D]),
    ([1], [0xD1, 0xF1]), ([0x01, 0x0A, 0x81, 0x00, 0x00, 0x00, 0xFF, 0xFF, 0x2C, 0x09], [0xD4, 0x8D])] : List (List Byte × List Byte)),
    crc16 defaultCrcTable x.1 = x.2 := by decide +kernel
/-- R71's table of response codes. -/
theorem test_response_codes : [RespCode.ok, .hardFailure, .noData, .checksum, .protocol, .badOperand, .illegalCmd].map
    RespCode.byte = [0x00, 0x01, 0x02, 0x03, 0x04, 0x05, 0x06] := by decide
/-- R152: the port waits. -/
theorem test_busExec : after (exec (.busExec 5 .read requestFive) (idleState [])) (·.portState? 0) = some .waiting := by
  decide +kernel
/-- R74: an empty frame is BAD_OPERAND. -/
theorem test_busExec_empty : answered (exec (.busExec 5 .read []) (idleState [])) = some ⟨0, .badOperand, [], 0⟩ := by
  decide +kernel
/-- R180: TXN of address 1, direction READ, is the first counter; little-endian. -/
theorem test_statRead : answered (exec (.statRead 1 .read 0) { idleState [] with stats := [0x01020304] }) =
    some ⟨0, .ok, [4, 3, 2, 1], 0⟩ := by decide +kernel
/-- R180, R27: HARD of address 32, direction WRITE, is the last of the 320. -/
theorem test_statRead_last : answered (exec (.statRead 32 .write 4)
    { idleState [] with stats := List.replicate 319 0 ++ [7] }) = some ⟨0, .ok, [7, 0, 0, 0], 0⟩ := by decide +kernel
/-- log 3: a table word placed at reset is what the next step runs. -/
theorem test_withFetchWord : answered (step (State.reset.withFetchWord 32 0x00000510)) =
    some ⟨0, .ok, requestFive, 0⟩ := by decide +kernel

/-! Witnesses: encoding and acceptance. -/

theorem witness_EncodeOfDecodeIsTheDelivery : decode ⟨0xFFFF0A11, [9]⟩ = .ok (.frmWrite 10 0xFFFF [9]) := by rfl

theorem witness_StepRunsTheDecodedCommand :
    (idleState [.deliver 1 ⟨0x00000510, []⟩, .check]).inputs = .deliver 1 ⟨0x00000510, []⟩ :: [.check] ∧
      (idleState [.deliver 1 ⟨0x00000510, []⟩, .check]).portState? 1 = some .idle ∧
      decode ⟨0x00000510, []⟩ = .ok (.frmRead 5) := ⟨rfl, rfl, rfl⟩

theorem witness_PlacedWordRunsInTheNextStep :
    (waitingState []).ports ≠ [] ∧ decodeTableWord 16 0x0510 = some (.frmRead 5) := by decide +kernel

/-- The delivery alone, to an IDLE port. -/
def offered (w : CmdWord) (data : List Byte) : State := idleState [.deliver 0 ⟨w, data⟩]

/-- The hypothesis of R72 and R73 on the command, as the obligation writes it. -/
abbrev Rejected (c : Command) : Prop :=
  let op := (c.word &&& 0xFF).toNat
  op ∉ [0x01, 0x02, 0x03, 0x10, 0x11, 0x12, 0x20, 0x30] ∨
    (op ∈ [0x01, 0x03] ∧ (c.word >>> 8 ≠ 0 ∨ c.data ≠ [])) ∨
    (op ∈ [0x02, 0x10] ∧ (c.word >>> 16 ≠ 0 ∨ c.data ≠ [])) ∨
    (op ∈ [0x12, 0x20] ∧ c.word >>> 17 ≠ 0) ∨ (op = 0x30 ∧ (c.word >>> 20 ≠ 0 ∨ c.data ≠ []))

/-- One command for each clause: an unassigned opcode, the lowest reserved bit of each format, data where none goes. -/
theorem witness_IllegalCommandsAreAnsweredAndChangeNothing :
    (∀ c ∈ ([⟨0x00000000, []⟩, ⟨0x00000031, []⟩, ⟨0x00000101, []⟩, ⟨0x00000003, [1]⟩, ⟨0x00010002, []⟩, ⟨0x00000510, [1]⟩,
        ⟨0x00020512, []⟩, ⟨0x00020520, [1]⟩, ⟨0x00100530, []⟩, ⟨0x00000530, [0]⟩] : List Command),
      Rejected c ∧ (offered c.word c.data).portState? 0 = some .idle ∧
        (offered c.word c.data).inputs = .deliver 0 c :: []) := by decide +kernel

/-- Both sides of each bound of R74, DATA_MAX = 255. -/
theorem witness_BadOperandExactlyWhenOutOfRange :
    (idleState []).issuer < (idleState []).ports.length ∧
      (∀ i ∈ ([.frmRead 0, .frmRead 33, .frmWrite 1 0 (List.replicate 246 0), .frmVerify 0 .read (List.replicate 256 0),
          .busExec 1 .read [], .statRead 1 .read 5] : List Instr), ¬ i.WellFormed (idleState []).params.dataMax) ∧
      (∀ i ∈ ([.crcInit, .crcUpdate 0, .crcFinish, .frmRead 1, .frmRead 32, .frmWrite 1 0 (List.replicate 245 0),
          .frmVerify 0 .read (List.replicate 255 0), .busExec 32 .read [0], .statRead 1 .read 4] : List Instr),
        i.WellFormed (idleState []).params.dataMax) := by decide +kernel

theorem witness_DeliveryToABusyPortIsHeld :
    let s := waitingState [.grant 0, .deliver 0 execFive]
    s.portState? 0 ≠ some .idle ∧ .deliver 0 execFive ∈ s.inputs ∧
      step s = .next (busyState .tSend 0 [.deliver 0 execFive]) := ⟨by decide, by decide, grant_step _⟩

/-! Witnesses: the checksum and the codec. -/

theorem witness_CrcInitSeedsTheAccumulator : (idleState []).issuer < (idleState []).ports.length := by decide

theorem witness_CrcUpdateAbsorbsHighThenLowNibble : (idleState []).crc? (idleState []).issuer = some (0xFF, 0xFF) := by
  decide

theorem witness_CrcFinishReturnsLowByteFirst : (idleState []).crc? (idleState []).issuer = some (0xFF, 0xFF) := by
  decide

theorem witness_CrcCommandsComputeTheChecksum : (idleState []).issuer < (idleState []).ports.length := by decide

theorem witness_SingleBitFlipsFailTheChecksum :
    verify defaultCrcTable 5 .read replyFive = .ok [1, 2, 3] ∧ 13 < replyFive.length ∧ 7 < 8 := by decide +kernel

/-- Both ends of the address range. -/
theorem witness_FrmReadBuildsTheReadAllRequest : (idleState []).issuer < (idleState []).ports.length ∧
    (∀ a ∈ ([1, 32] : List Byte), 1 ≤ a.toNat ∧ a.toNat ≤ 32) := by decide

/-- Both ends of the address range, the longest and the empty payload. -/
theorem witness_FrmWriteBuildsTheWriteFieldRequest : (idleState []).issuer < (idleState []).ports.length ∧
    (∀ a ∈ ([1, 32] : List Byte), 1 ≤ a.toNat ∧ a.toNat ≤ 32) ∧
    (∀ payload ∈ ([[], List.replicate 245 0] : List (List Byte)),
      payload.length ≤ 245 ∧ payload.length ≤ (idleState []).params.dataMax) := by decide +kernel

/-- The empty reply, one of DATA_MAX bytes, and one that verifies with a payload. -/
theorem witness_FrmVerifyAnswersTheVerifyResult : (idleState []).issuer < (idleState []).ports.length ∧
    (∀ reply ∈ ([[], List.replicate 255 0, replyFive, replyThree] : List (List Byte)),
      reply.length ≤ (idleState []).params.dataMax) := by decide +kernel

/-- A reply for each clause: too short, a wrong trailer, and an 8-byte one (V12). -/
theorem witness_WriteReplyOfAnotherLengthIsRejected :
    (let L : List Byte := [0x81, 0x07]; L.length ≠ 7 ∧ L.length < 3) ∧
      (let L : List Byte := [0x81, 0x08, 0x00, 0x03, 0x01, 0x00, 0xDC, 0xF6]
       L.length ≠ 7 ∧ 3 ≤ L.length ∧ crc16 defaultCrcTable (L.take (L.length - 2)) ≠ L.drop (L.length - 2)) ∧
      (let L : List Byte := [0x81, 0x08, 0x00, 0x03, 0x01, 0x00, 0xDC, 0xF7]
       L.length ≠ 7 ∧ 3 ≤ L.length ∧ crc16 defaultCrcTable (L.take (L.length - 2)) = L.drop (L.length - 2) ∧
         (L[0]? = some 129 ∨ L[0]? = some 160) ∧ L[3]? = some 3 ∧ L[4]? = some 1) := by decide +kernel

theorem witness_ReadAllReplyRoundTrip : (List.replicate 160 (0xA5 : Byte)).length = 160 := by decide +kernel

/-- Both kinds of request. -/
theorem witness_BuiltRequestsPassTheChecksumStep :
    (∃ frame, frame = buildReadAll defaultCrcTable 5) ∧ (∃ frame, frame = buildWrite defaultCrcTable 5 18 [22]) :=
  ⟨⟨_, rfl⟩, ⟨_, rfl⟩⟩

theorem witness_TruncatedRepliesNeverVerify :
    verify defaultCrcTable 5 .read replyFive = .ok [1, 2, 3] ∧ 13 < replyFive.length := by decide +kernel

/-! Witnesses: the transport. -/

theorem witness_BusExecWaitsForTheLock : (idleState []).issuer < (idleState []).ports.length ∧
    (∀ a ∈ ([1, 32] : List Byte), 1 ≤ a.toNat ∧ a.toNat ≤ 32) ∧
    (∀ frame ∈ ([[0], List.replicate 255 0] : List (List Byte)),
      1 ≤ frame.length ∧ frame.length ≤ (idleState []).params.dataMax) := by decide +kernel

theorem witness_InitialOpenSetsTheLinkState :
    ({ State.reset with inputs := [.linkOpen .fail] } : State).tState = .tInit ∧
      ({ State.reset with inputs := [.linkOpen .fail] } : State).inputs = .linkOpen .fail :: [] := ⟨rfl, rfl⟩

theorem witness_GrantGivesTheLockToAWaitingPort :
    let s := waitingState [.grant 0]
    s.tState = .tIdle ∧ s.lockOwner = none ∧ s.portState? 0 = some .waiting ∧ s.inputs = .grant 0 :: [] := by
  decide +kernel

theorem witness_OwnGrantChoosesSomeWaitingPort :
    let s := waitingState [.check]
    s.tState = .tIdle ∧ s.lockOwner = none ∧ (∃ q, s.portState? q = some .waiting) ∧
      (∀ e ∈ s.inputs, s.enabled e = false) := by
  refine ⟨rfl, rfl, ⟨0, rfl⟩, ?_⟩
  decide +kernel

theorem witness_SendOnAClosedLinkReconnects :
    let s : State := { busyState .tSend 0 [.sendClosed] with linkState := .closed }
    s.tState = .tSend ∧ s.linkState = .closed ∧ s.inputs = .sendClosed :: [] := ⟨rfl, rfl, rfl⟩

theorem witness_SendOffersTheOwnersFrame :
    ∀ answer, let s := busyState .tSend 0 [.linkWrite answer]
    s.tState = .tSend ∧ s.linkState = .opened ∧ s.lockOwner = some 0 ∧ s.cmd? 0 = some execFive ∧
      s.inputs = .linkWrite answer :: [] := fun _ => ⟨rfl, rfl, rfl, rfl, rfl⟩

/-- A window of more than RX_MAX bytes, and an I/O error. -/
theorem witness_ReceiveKeepsAtMostRxMaxBytes :
    ∀ answer ∈ [.bytes (List.replicate 160 0), .ioError], let s := busyState .tRecv 0 [.linkRead answer]
    s.tState = .tRecv ∧ s.lockOwner = some 0 ∧ s.cmd? 0 = some execFive ∧ s.inputs = .linkRead answer :: [] :=
  fun _ _ => ⟨rfl, rfl, rfl, rfl⟩

theorem witness_AcceptedReplyCompletesTheTransaction :
    let s : State := { busyState .tCheck 4 [.check] with rxbuf := replyFive }
    s.Inv ∧ s.tState = .tCheck ∧ s.lockOwner = some 0 ∧ s.cmd? 0 = some execFive ∧ s.inputs = .check :: [] ∧
      verify s.params.crcTable (addrField execFive.word) (dirField execFive.word) s.rxbuf = .ok [1, 2, 3] := by
  decide +kernel

/-- One reply for each error. -/
theorem witness_RejectedReplyIsOneSoftError :
    ∀ x ∈ ([([], .noDataReceived), ([0, 0, 0], .checksumMismatch), (replyThree, .protocolViolation)] :
        List (List Byte × VerifyError)),
      let s : State := { busyState .tCheck 0 [.check] with rxbuf := x.1 }
      s.Inv ∧ s.tState = .tCheck ∧ s.lockOwner = some 0 ∧ s.cmd? 0 = some execFive ∧ s.inputs = .check :: [] ∧
        verify s.params.crcTable (addrField execFive.word) (dirField execFive.word) s.rxbuf = .err x.2 := by
  decide +kernel

/-- The last retry and the hard failure. -/
theorem witness_BackoffEndsInRetryOrHardFailure :
    ∀ n ∈ [4, 5], let s := busyState .tBackoff n [.backoffEnd]
    s.Inv ∧ s.tState = .tBackoff ∧ s.lockOwner = some 0 ∧ s.cmd? 0 = some execFive ∧ s.inputs = .backoffEnd :: [] := by
  decide +kernel

/-- The last reconnect with an attempt left and the one without. -/
theorem witness_ReconnectUsesUpAnAttempt :
    ∀ n ∈ [3, 4], let s := busyState .tReconnect n [.linkOpen .ok]
    s.Inv ∧ s.tState = .tReconnect ∧ s.lockOwner = some 0 ∧ s.cmd? 0 = some execFive ∧
      s.inputs = .linkOpen .ok :: [] := by decide +kernel

/-- A failed write, a failed read, a send on a closed link and a reconnect, each with its next state. -/
theorem witness_ConnectionFailuresCountNothing :
    (let s := busyState .tSend 0 [.linkWrite .ioError]
     s.enabled (.linkWrite .ioError) = true ∧
       step s = .next { busyState .tReconnect 0 [] with linkLog := [.write 0 requestFive .ioError] }) ∧
    (let s := busyState .tRecv 0 [.linkRead .ioError]
     s.enabled (.linkRead .ioError) = true ∧
       step s = .next { busyState .tReconnect 0 [] with linkLog := [.readError 0] }) ∧
    (let s : State := { busyState .tSend 0 [.sendClosed] with linkState := .closed }
     s.enabled .sendClosed = true ∧ step s = .next { busyState .tReconnect 0 [] with linkState := .closed }) ∧
    (let s := busyState .tReconnect 3 [.linkOpen .ok]
     s.enabled (.linkOpen .ok) = true ∧ (∀ answer, Event.linkOpen .ok = .linkOpen answer → s.attempt + 1 < 5) ∧
       step s = .next { busyState .tSend 4 [] with linkLog := [.opening (some 0) .ok, .close 0] }) :=
  ⟨⟨rfl, next_of_nextIs (by decide +kernel)⟩, ⟨rfl, next_of_nextIs (by decide +kernel)⟩,
    ⟨rfl, next_of_nextIs (by decide +kernel)⟩, rfl, fun _ _ => by decide, next_of_nextIs (by decide +kernel)⟩

theorem witness_OneGoodReplyCompletesATransaction :
    let s := waitingState [.grant 0, .linkWrite .ok, .linkRead (.bytes replyFive)]
    s.Inv ∧ s.tState = .tIdle ∧ s.linkState = .opened ∧ s.portState? 0 = some .waiting ∧ s.cmd? 0 = some execFive ∧
      s.inputs = [.grant 0, .linkWrite .ok, .linkRead (.bytes replyFive)] ∧
      verify s.params.crcTable (addrField execFive.word) (dirField execFive.word) (replyFive.take s.params.rxMax) =
        .ok [1, 2, 3] := by decide +kernel

theorem witness_FiveFailedAttemptsAreOneHardFailure :
    let windows : List (List Byte) := [[], [0, 0, 0], replyThree, [], []]
    let s := busyState .tSend 0 (windows.flatMap fun w => [.linkWrite .ok, .linkRead (.bytes w)])
    s.Inv ∧ s.tState = .tSend ∧ s.linkState = .opened ∧ s.lockOwner = some 0 ∧ s.cmd? 0 = some execFive ∧
      s.attempt = 0 ∧ windows.length = 5 ∧
      s.inputs = windows.flatMap (fun w => [.linkWrite .ok, .linkRead (.bytes w)]) ∧
      (∀ w ∈ windows, ∃ e, verify s.params.crcTable (addrField execFive.word) (dirField execFive.word)
        (w.take s.params.rxMax) = .err e) ∧
      (∀ k, s.stat (addrField execFive.word).toNat (dirField execFive.word) k + 5 ≤ 2 ^ s.params.ctrW - 1) := by
  refine ⟨by decide +kernel, rfl, rfl, rfl, rfl, rfl, rfl, rfl, ?_, ?_⟩
  · intro w hw
    simp only [List.mem_cons, List.not_mem_nil, or_false] at hw
    rcases hw with rfl | rfl | rfl | rfl | rfl
    · exact ⟨.noDataReceived, by decide +kernel⟩
    · exact ⟨.checksumMismatch, by decide +kernel⟩
    · exact ⟨.protocolViolation, by decide +kernel⟩
    · exact ⟨.noDataReceived, by decide +kernel⟩
    · exact ⟨.noDataReceived, by decide +kernel⟩
  · intro k
    cases k <;> decide +kernel

/-! Witnesses: the whole machine. -/

/-- Every counter name, at both ends of the address range. -/
theorem witness_StatReadReturnsTheCounterLittleEndian :
    let s : State := { idleState [] with stats := List.replicate 320 0xFFFFFFFF }
    s.issuer < s.ports.length ∧ 8 ∣ s.params.ctrW ∧
      ∀ a ∈ ([1, 32] : List Byte), 1 ≤ a.toNat ∧ a.toNat ≤ 32 ∧
        ∀ x ∈ ([(0, .txn), (1, .csum), (2, .nodata), (3, .proto), (4, .hard)] : List (BitVec 3 × Counter)),
          x.1.toNat = ctrIndex x.2 ∧ s.stat a.toNat .write x.2 < 2 ^ s.params.ctrW := by decide +kernel

/-- A step within the invariant: a send. -/
theorem witness_EveryStepKeepsTheInvariant :
    (busyState .tSend 0 [.linkWrite .ok]).Inv ∧ step (busyState .tSend 0 [.linkWrite .ok]) =
      .next { busyState .tRecv 0 [] with linkLog := [.write 0 requestFive .ok] } := ⟨by decide +kernel, send_step⟩

theorem witness_OnlyTheLockOwnerTouchesTheLink : step (busyState .tSend 0 [.linkWrite .ok]) =
    .next { busyState .tRecv 0 [] with linkLog := [.write 0 requestFive .ok] } := send_step

/-- A step that counts: TXN of address 5, direction READ. -/
theorem witness_CountersOnlyGrow :
    after (step { busyState .tCheck 0 [.check] with rxbuf := replyFive }) (fun t => some (t.stat 5 .read .txn)) = some 1 := by
  decide +kernel

theorem witness_TransactionsMakeBoundedProgress :
    (busyState .tSend 0 [.linkWrite .ok]).Inv ∧ (busyState .tSend 0 [.linkWrite .ok]).lockOwner = some 0 ∧
      step (busyState .tSend 0 [.linkWrite .ok]) =
        .next { busyState .tRecv 0 [] with linkLog := [.write 0 requestFive .ok] } :=
  ⟨by decide +kernel, rfl, send_step⟩

/-- A window, a check and a backoff, with an offered event that cannot happen. -/
theorem witness_WindowsChecksAndBackoffsEnd :
    ∀ x ∈ [(TState.tRecv, 0), (TState.tCheck, 4), (TState.tBackoff, 5)], let s := busyState x.1 x.2 [.sendClosed]
    s.Inv ∧ (s.tState = .tRecv ∨ s.tState = .tCheck ∨ s.tState = .tBackoff) ∧
      (∀ e ∈ s.inputs, s.enabled e = false) := by decide +kernel

theorem witness_OwnMoveIsTheOfferedMove :
    let s := busyState .tCheck 0 [.grant 1]
    (∀ e ∈ s.inputs, s.enabled e = false) ∧ s.ownMove = some .check ∧ s.enabled .check = true := by decide +kernel

theorem witness_ResetDropsEveryCommand : (busyState .tRecv 3 [.reset]).inputs = .reset :: [] := rfl

/-- One configuration for each way to give or not give the two fields. -/
theorem witness_ConstructionNeedsExactlyOneLinkField :
    (let c : LinkCfg := ⟨some ("ndc", 10000), none⟩; c.bridge.isSome ∧ c.device = none) ∧
      (let c : LinkCfg := ⟨none, some "line"⟩; c.bridge = none ∧ c.device.isSome) ∧
      (let c : LinkCfg := ⟨some ("ndc", 10000), some "line"⟩; c.bridge.isSome ∧ c.device.isSome) ∧
      (let c : LinkCfg := ⟨none, none⟩; c.bridge = none ∧ c.device = none) := by decide

/-- A waiting port at its grant, with a reset listed later, and an active one at a send. -/
theorem witness_CommandsAreNotCancelled :
    ((waitingState [.grant 0, .reset]).taken ≠ some .reset ∧ (waitingState [.grant 0, .reset]).portState? 0 = some .waiting ∧
      step (waitingState [.grant 0, .reset]) = .next (busyState .tSend 0 [.reset])) ∧
    ((busyState .tSend 0 [.linkWrite .ok]).taken ≠ some .reset ∧
      (busyState .tSend 0 [.linkWrite .ok]).portState? 0 = some .active ∧
      step (busyState .tSend 0 [.linkWrite .ok]) =
        .next { busyState .tRecv 0 [] with linkLog := [.write 0 requestFive .ok] }) :=
  ⟨⟨by decide, rfl, grant_step [.reset]⟩, by decide, rfl, send_step⟩

theorem witness_PortsCannotReachEachOthersAccumulators :
    1 ≠ (idleState []).issuer ∧ (idleState []).ports[1]? = some Port.reset ∧
      exec .crcInit (idleState []) = .next ((idleState []).respond 0 .ok [] 0) := ⟨by decide, rfl, init_exec⟩

/-- A command that answers, and one that waits. -/
theorem witness_CommandsLeaveTheTransportAlone :
    exec .crcInit (idleState []) = .next ((idleState []).respond 0 .ok [] 0) ∧
      exec (.busExec 5 .read requestFive) (idleState []) = .next (waitingState []) :=
  ⟨init_exec, next_of_nextIs (by decide +kernel)⟩

/-- A step with a response, and one without. -/
theorem witness_AtMostOneResponseAStep :
    step (idleState [.deliver 0 ⟨0x00000001, []⟩]) = .next ((idleState []).respond 0 .ok [] 0) ∧
      step (waitingState [.grant 0]) = .next (busyState .tSend 0 []) :=
  ⟨next_of_nextIs (by decide +kernel), grant_step []⟩

/-- A completion and a hard failure, each the response of a port that is not IDLE. -/
theorem witness_TransactionsAnswerOkOrHardFailure :
    (let s : State := { busyState .tCheck 0 [.check] with rxbuf := replyFive }
     s.portState? 0 ≠ some .idle ∧
       after (step s) (fun t => if t.responses = ⟨0, .ok, [1, 2, 3], 0⟩ :: s.responses then some () else none) = some ()) ∧
    (let s := busyState .tBackoff 5 [.backoffEnd]
     s.portState? 0 ≠ some .idle ∧
       after (step s) (fun t => if t.responses = ⟨0, .hardFailure, [], 5⟩ :: s.responses then some () else none) =
         some ()) := by decide +kernel

theorem witness_ParametersNeverChange : step (waitingState [.grant 0]) = .next (busyState .tSend 0 []) := grant_step []

end Sys2Proof.Tests
end

section
/-! SUPPORT. The masks and shifts of the statements as fields of the command word (R62 to R68), and which deliveries
decode at all (R72, R73). -/

namespace Sys2Proof

/-- The lowest bit that no field of the format covers (R63 to R68); 32 where every bit belongs to a field. -/
def Format.firstReserved : Format → Nat
  | .n => 8
  | .b => 16
  | .ao => 32
  | .af => 17
  | .as => 20

theorem toNat_and_opcodeMask (w : CmdWord) : (w &&& 0xFF).toNat = (opField w).toNat := by
  have h : (0xFF : CmdWord).toNat = 2 ^ 8 - 1 := rfl
  rw [BitVec.toNat_and, h, Nat.and_two_pow_sub_one_eq_mod]
  simp [opField, BitVec.extractLsb'_toNat]

/-- The bits from k up are 0 exactly if nothing is left after shifting the others out. -/
theorem extract_top_eq_zero {w : CmdWord} {k n : Nat} (h : k + n = 32) : w.extractLsb' k n = 0#n ↔ w >>> k = 0 := by
  have hlt : w.toNat >>> k < 2 ^ n := by
    rw [Nat.shiftRight_eq_div_pow, Nat.div_lt_iff_lt_mul (Nat.two_pow_pos k), ← Nat.pow_add, Nat.add_comm, h]
    exact w.isLt
  simp [← BitVec.toNat_inj, BitVec.extractLsb'_toNat, Nat.mod_eq_of_lt hlt]

/-- The reserved bits of a format are the ones from `firstReserved` up. -/
theorem reservedClear_iff (f : Format) (w : CmdWord) : f.reservedClear w = true ↔ w >>> f.firstReserved = 0 := by
  cases f with
  | n => exact decide_eq_true_iff.trans (extract_top_eq_zero rfl)
  | b => exact decide_eq_true_iff.trans (extract_top_eq_zero rfl)
  | ao => exact iff_of_true rfl (BitVec.ushiftRight_eq_zero (le_refl 32))
  | af => exact decide_eq_true_iff.trans (extract_top_eq_zero rfl)
  | as => exact decide_eq_true_iff.trans (extract_top_eq_zero rfl)

/-- What decodes names an assigned opcode, has nothing above its format's fields, and carries data only where the
format takes it (R72, R73). -/
theorem legal_of_decode {c : Command} {i : Instr} (h : decode c = .ok i) :
    ∃ op : Opcode, (c.word &&& 0xFF).toNat = op.byte.toNat ∧ c.word >>> op.format.firstReserved = 0 ∧
      (op.format.takesData = false → c.data = []) := by
  obtain ⟨op, hop, hres, hdata, -⟩ := decode_eq_ok.1 h
  exact ⟨op, by rw [toNat_and_opcodeMask, hop], (reservedClear_iff _ _).1 hres, hdata⟩

end Sys2Proof
end

section
/-! SUPPORT. Acceptance (R153): what the step does with a delivery that stands first and does not decode, and the
meaning of each command for an issuing port that exists. -/

namespace Sys2Proof.Machine

theorem step_deliver {s : State} {p : Nat} {c : Command} {rest : List Event} (hi : s.inputs = .deliver p c :: rest)
    (hp : s.portState? p = some .idle) : step s = accept p c { s with inputs := rest } :=
  step_head hi (decide_eq_true hp)

theorem accept_error {p : Nat} {c : Command} {e : DecodeError} (s : State) (h : decode c = .error e) :
    accept p c s = .next (({ s with issuer := p } : State).respond p .illegalCmd [] 0) := by
  rw [accept, h]

/-- The response code of a result of `verify` (R135). -/
def VerifyResult.code : VerifyResult → RespCode
  | .ok _ => .ok
  | .err e => e.code

/-- The response data of a result of `verify` (R135): the payload, none for an error. -/
def VerifyResult.data : VerifyResult → List Byte
  | .ok payload => payload
  | .err _ => []

theorem VerifyResult.code_ne_badOperand (v : VerifyResult) : v.code ≠ .badOperand := by
  cases v with
  | ok payload => exact nofun
  | err e => cases e <;> decide

section execEquations

variable {s : State} {x : Port}

theorem exec_crcInit (hx : s.ports[s.issuer]? = some x) :
    exec .crcInit s = (s.setPort s.issuer (x.setAcc Acc.seed)).answer .ok [] := onIssuer_port hx _

theorem exec_crcUpdate (hx : s.ports[s.issuer]? = some x) (b : Byte) :
    exec (.crcUpdate b) s = (s.setPort s.issuer (x.setAcc (crcUpdate s.params.crcTable x.acc b))).answer .ok [] :=
  onIssuer_port hx _

theorem exec_crcFinish (hx : s.ports[s.issuer]? = some x) :
    exec .crcFinish s = s.answer .ok (crcFinish x.acc) := onIssuer_port hx _

theorem exec_frmRead (hx : s.ports[s.issuer]? = some x) (a : Byte) :
    exec (.frmRead a) s =
      if frmReadOk a then s.answer .ok (buildReadAll s.params.crcTable a) else s.answer .badOperand [] :=
  onIssuer_port hx _

theorem exec_frmWrite (hx : s.ports[s.issuer]? = some x) (a : Byte) (off : Half) (d : List Byte) :
    exec (.frmWrite a off d) s =
      if frmWriteOk s.params a d then s.answer .ok (buildWrite s.params.crcTable a off d)
      else s.answer .badOperand [] :=
  onIssuer_port hx _

theorem exec_frmVerify (hx : s.ports[s.issuer]? = some x) (a : Byte) (f : Dir) (d : List Byte) :
    exec (.frmVerify a f d) s =
      if frmVerifyOk s.params d then
        s.answer (verify s.params.crcTable a f d).code (verify s.params.crcTable a f d).data
      else s.answer .badOperand [] := by
  refine (onIssuer_port hx _).trans ?_
  cases verify s.params.crcTable a f d <;> rfl

theorem exec_busExec (hx : s.ports[s.issuer]? = some x) (a : Byte) (f : Dir) (d : List Byte) :
    exec (.busExec a f d) s =
      if busExecOk s.params a d then
        .next (s.setPort s.issuer { x with state := .waiting, cmd := encode (.busExec a f d) })
      else s.answer .badOperand [] :=
  onIssuer_port hx _

theorem exec_statRead_some (hx : s.ports[s.issuer]? = some x) {a : Byte} (d : Dir) {c : BitVec 3} {k : Counter}
    (hk : statReadCounter a c = some k) :
    exec (.statRead a d c) s = s.answer .ok (leBytes (statBytes s.params) (s.stat a.toNat d k)) :=
  (onIssuer_port hx _).trans (by rw [hk])

theorem exec_statRead_none (hx : s.ports[s.issuer]? = some x) {a : Byte} (d : Dir) {c : BitVec 3}
    (hk : statReadCounter a c = none) : exec (.statRead a d c) s = s.answer .badOperand [] :=
  (onIssuer_port hx _).trans (by rw [hk])

end execEquations

/-- An operand out of range ends in BAD_OPERAND (R74, R208). -/
theorem exec_of_not_wellFormed {s : State} {i : Instr} {x : Port} (hx : s.ports[s.issuer]? = some x)
    (h : ¬ i.WellFormed s.params.dataMax) : exec i s = s.answer .badOperand [] := by
  cases i with
  | crcInit => exact absurd rfl h
  | crcUpdate b => exact absurd rfl h
  | crcFinish => exact absurd rfl h
  | frmRead a => rw [exec_frmRead hx, if_neg (mt frmReadOk_iff.1 h)]
  | frmWrite a off d => rw [exec_frmWrite hx, if_neg (mt frmWriteOk_iff.1 h)]
  | frmVerify a f d => rw [exec_frmVerify hx, if_neg (mt frmVerifyOk_iff.1 h)]
  | busExec a f d => rw [exec_busExec hx, if_neg (mt busExecOk_iff.1 h)]
  | statRead a d c =>
    have hk : statReadCounter a c = none := by simpa using mt statReadCounter_isSome.1 h
    exact exec_statRead_none hx d hk

/-- With every operand in range a command writes at most the issuer's registers, and it answers with another code or,
as BUS.EXEC, not in this step (R153). -/
theorem exec_of_wellFormed {s : State} {i : Instr} {x : Port} (hx : s.ports[s.issuer]? = some x)
    (h : i.WellFormed s.params.dataMax) :
    ∃ y, (∃ code data, code ≠ .badOperand ∧ exec i s = (s.setPort s.issuer y).answer code data) ∨
      exec i s = .next (s.setPort s.issuer y) := by
  have ok_ne : RespCode.ok ≠ .badOperand := by decide
  have stay := setPort_self hx
  cases i with
  | crcInit => exact ⟨_, .inl ⟨_, _, ok_ne, exec_crcInit hx⟩⟩
  | crcUpdate b => exact ⟨_, .inl ⟨_, _, ok_ne, exec_crcUpdate hx b⟩⟩
  | crcFinish => exact ⟨x, .inl ⟨_, _, ok_ne, by rw [stay, exec_crcFinish hx]⟩⟩
  | frmRead a => exact ⟨x, .inl ⟨_, _, ok_ne, by rw [stay, exec_frmRead hx, if_pos (frmReadOk_iff.2 h)]⟩⟩
  | frmWrite a off d =>
    exact ⟨x, .inl ⟨_, _, ok_ne, by rw [stay, exec_frmWrite hx, if_pos (frmWriteOk_iff.2 h)]⟩⟩
  | frmVerify a f d =>
    exact ⟨x, .inl ⟨_, _, VerifyResult.code_ne_badOperand _,
      by rw [stay, exec_frmVerify hx, if_pos (frmVerifyOk_iff.2 h)]⟩⟩
  | busExec a f d => exact ⟨_, .inr (by rw [exec_busExec hx, if_pos (busExecOk_iff.2 h)])⟩
  | statRead a d c =>
    obtain ⟨k, hk⟩ := Option.isSome_iff_exists.1 (statReadCounter_isSome.2 h)
    exact ⟨x, .inl ⟨_, _, ok_ne, by rw [stay, exec_statRead_some hx d hk]⟩⟩

end Sys2Proof.Machine
end

section
/-! PROOFS. The statements about acceptance that concern illegal commands and operands out of range (R72 to R74). -/

namespace Sys2Proof.Machine

/-- Settles O8: had the command decoded, its opcode would leave of the illegal forms only the one of its own format,
which `legal_of_decode` contradicts; so acceptance ends in the decoder's error. -/
theorem illegalCommandsAreAnsweredAndChangeNothing : Obligations.IllegalCommandsAreAnsweredAndChangeNothing := by
  intro s p c rest hi hp illegal
  cases hd : decode c with
  | error e =>
    refine ⟨_, (step_deliver hi hp).trans (accept_error _ hd), ?_⟩
    simp [State.SameBlock]
  | ok i =>
    exfalso
    obtain ⟨op, hop, hres, hdata⟩ := legal_of_decode hd
    simp only [hop] at illegal
    cases op <;> simp_all [Opcode.byte, Opcode.format, Format.firstReserved, Format.takesData]

/-- Settles O9: the checks of the meanings are the ranges of R74 (Laws/Operands.lean), so the two directions are
`exec_of_not_wellFormed` and `exec_of_wellFormed`. -/
theorem badOperandExactlyWhenOutOfRange : Obligations.BadOperandExactlyWhenOutOfRange := by
  intro s i hlt
  have hx := List.getElem?_eq_getElem hlt
  constructor
  · intro hbad
    refine ⟨_, exec_of_not_wellFormed hx hbad, ?_⟩
    simp [State.SameBlock, State.KeepsRest, State.SameTransport]
  · intro hwf
    obtain ⟨y, ⟨code, data, hcode, hexec⟩ | hexec⟩ := exec_of_wellFormed hx hwf
    · refine ⟨_, hexec, fun r hr => ?_⟩
      obtain rfl : ⟨s.issuer, code, data, 0⟩ = r := by simpa using hr
      exact hcode
    · exact ⟨_, hexec, fun r hr => absurd hr (by simp)⟩

end Sys2Proof.Machine
end

section
/-! SUPPORT. The steps of `verify` (R130): a byte of the reply read with its guard for an absent one (R132), the
trailer as the two bytes it is, and the comparison of two ordered lists of checks (R131). -/

namespace Sys2Proof.Machine

theorem getElem?_eq_some_iff_getD {bytes : List Byte} {i : Nat} {b : Byte} (h : i < bytes.length) :
    bytes[i]? = some b ↔ bytes.getD i 0 = b := by
  rw [List.getElem?_eq_getElem h, List.getD_eq_getElem _ _ h, Option.some_inj]

/-- A check of byte i fails if the byte is absent or another one (R132). -/
theorem getElem?_ne_some_iff {bytes : List Byte} {i : Nat} {b : Byte} :
    bytes[i]? ≠ some b ↔ bytes.length < i + 1 ∨ bytes.getD i 0 ≠ b := by
  rcases Nat.lt_or_ge i bytes.length with hlt | hge
  · rw [Ne, getElem?_eq_some_iff_getD hlt, or_iff_right (by omega)]
  · exact iff_of_true (by simp [hge]) (.inl (Nat.lt_succ_of_le hge))

/-- The last two bytes, which the CRC step compares with (R130 step 2). -/
theorem drop_length_sub_two {bytes : List Byte} (h : 2 ≤ bytes.length) :
    bytes.drop (bytes.length - 2) = [bytes.getD (bytes.length - 2) 0, bytes.getD (bytes.length - 1) 0] := by
  have hlast : bytes.length - 2 + 1 = bytes.length - 1 := by omega
  rw [List.drop_eq_getElem_cons (by omega), List.drop_eq_getElem_cons (by omega), List.drop_eq_nil_of_le (by omega),
    List.getD_eq_getElem _ _ (by omega), List.getD_eq_getElem _ _ (by omega)]
  simp only [hlast]

theorem functionByte_toNat (f : Dir) : (functionByte f).toNat = dirIndex f := by cases f <;> rfl

theorem ne_functionByte_iff {b : Byte} {f : Dir} : b ≠ functionByte f ↔ b.toNat ≠ dirIndex f := by
  rw [← functionByte_toNat, Ne, ← BitVec.toNat_inj]

/-- Two ordered lists of checks agree if the first checks fail on the same replies, with the same error, and the rests
agree where they pass (R131). -/
theorem check_congr {P Q : Prop} [Decidable P] [Decidable Q] {e : VerifyError} {u v : VerifyResult} (h : P ↔ Q)
    (rest : ¬Q → u = v) : (if P then .err e else u) = (if Q then .err e else v) :=
  if_ctx_congr h (fun _ => rfl) rest

end Sys2Proof.Machine
end

section
/-! PROOFS. The statement about the order of the checks of `verify` (R130 to R132). -/

namespace Sys2Proof.Machine

/-- Settles O20, check by check with `check_congr`: past step 1 the trailer is two bytes, and past step 5 the
function byte is present, so neither is read with a guard there. -/
theorem verifyFailsAtTheFirstFailingStep : Obligations.VerifyFailsAtTheFirstFailingStep := by
  intro tbl a f L n byte
  unfold verify
  refine check_congr Iff.rfl fun hshort => ?_
  have hn : 3 ≤ L.length := Nat.not_lt.1 hshort
  refine check_congr (by rw [drop_length_sub_two (by omega)]; rfl) fun _ => ?_
  have hdest (b : Byte) : L[0]? ≠ some b ↔ byte 0 ≠ b := (getElem?_eq_some_iff_getD (by omega)).not
  refine check_congr (and_congr (hdest 129) (hdest 160)) fun _ => ?_
  refine check_congr getElem?_ne_some_iff fun _ => ?_
  have hunknown : L[4]? ≠ some 0 ∧ L[4]? ≠ some 1 ↔ n < 5 ∨ (byte 4 ≠ 0 ∧ byte 4 ≠ 1) := by
    rw [getElem?_ne_some_iff, getElem?_ne_some_iff, ← or_and_left]
  refine check_congr hunknown fun hknown => ?_
  have hfunction (b : Byte) : L[4]? = some b ↔ byte 4 = b :=
    getElem?_eq_some_iff_getD (Nat.not_lt.1 (not_or.1 hknown).1)
  refine check_congr ((hfunction _).not.trans ne_functionByte_iff) fun _ => ?_
  refine check_congr (and_congr_left' (hfunction 1)) fun _ => ?_
  exact check_congr Iff.rfl fun _ => if_congr (hfunction 0) rfl rfl

end Sys2Proof.Machine
end

section
/-! SUPPORT. The counters (R27, R181): reading them after an increment and after a hard failure, in any state. -/

namespace Sys2Proof.Machine

theorem stat_congr {s u : State} (h : u.stats = s.stats) (a : Nat) (d : Dir) (k : Counter) :
    u.stat a d k = s.stat a d k := by
  simp only [State.stat, h]

/-- An increment of a counter counts that one and no other, where the address is one of the block's (R27). -/
theorem incStat_stat {s : State} {a : Nat} (d : Dir) (c : Counter) (hl : s.stats.length = statCount) (h1 : 1 ≤ a)
    (h2 : a ≤ 32) (b : Nat) (e : Dir) (k : Counter) :
    (s.incStat a d c).stat b e k =
      if b = a ∧ e = d ∧ k = c then satInc s.params.ctrW (s.stat b e k) else s.stat b e k := by
  split
  next h =>
    obtain ⟨rfl, rfl, rfl⟩ := h
    exact incStat_stat_same hl h1 h2
  next h => exact incStat_stat_other fun ⟨ha, hd, hc⟩ => h ⟨ha.symm, hd.symm, hc.symm⟩

/-- In any state, whatever the address, an increment changes a counter only if it is the one counted, and only by
`sat_inc` (log 15: without a place in `STATS` nothing is counted). -/
theorem incStat_stat_cases (s : State) (a : Nat) (d : Dir) (c : Counter) (b : Nat) (e : Dir) (k : Counter) :
    (s.incStat a d c).stat b e k = s.stat b e k ∨
      (k = c ∧ (s.incStat a d c).stat b e k = satInc s.params.ctrW (s.stat b e k)) := by
  by_cases hsame : a = b ∧ d = e ∧ c = k
  · obtain ⟨rfl, rfl, rfl⟩ := hsame
    cases hi : statIndex a d c with
    | none => simp [State.incStat, hi]
    | some i =>
      by_cases hlt : i < s.stats.length <;> simp [State.incStat, State.stat, hi, List.getD, hlt]
  · exact .inl (incStat_stat_other hsame)

/-- A hard failure changes a counter only by `sat_inc`, and only HARD or TXN (R163, R164). -/
theorem hardFail_stat_cases (s : State) (t : Txn) (a : Nat) (d : Dir) (k : Counter) :
    (s.hardFail t).stat a d k = s.stat a d k ∨
      ((k = .hard ∨ k = .txn) ∧ (s.hardFail t).stat a d k = satInc s.params.ctrW (s.stat a d k)) := by
  rw [stat_congr (s.hardFail_stats t)]
  rcases incStat_stat_cases (s.incStat t.a.toNat t.f .hard) t.a.toNat t.f .txn a d k with hkeep | ⟨rfl, hinc⟩
  · rw [hkeep]
    exact (incStat_stat_cases s t.a.toNat t.f .hard a d k).imp_right fun ⟨hk, h⟩ => ⟨.inl hk, h⟩
  · have hother : (s.incStat t.a.toNat t.f .hard).stat a d .txn = s.stat a d .txn := incStat_stat_other (by simp)
    exact .inr ⟨.inr rfl, by rw [hinc, hother, State.incStat_params]⟩

theorem resetBlock_stat (s : State) (a : Nat) (d : Dir) (k : Counter) : s.resetBlock.stat a d k = 0 := by
  unfold State.stat
  split
  next i _ =>
    rw [State.resetBlock_stats, List.getD, List.getElem?_replicate]
    split <;> rfl
  next => rfl

theorem VerifyError.bucket_ne_hard (e : VerifyError) : e.bucket ≠ .hard := by cases e <;> decide

end Sys2Proof.Machine
end

section
/-! SUPPORT. When each move of the transport can happen (R155 to R162), and what it does then. -/

namespace Sys2Proof.Machine

theorem enabled_deliver {s : State} {p : Nat} {c : Command} :
    s.enabled (.deliver p c) = true ↔ s.portState? p = some .idle := decide_eq_true_iff

theorem enabled_linkOpen {s : State} {w : OpenAnswer} : s.enabled (.linkOpen w) = true ↔
    s.tState = .tInit ∨ (s.tState = .tReconnect ∧ ∃ t, s.txn? = some t) := by
  simp [State.enabled, Option.isSome_iff_exists]

theorem enabled_sendClosed {s : State} :
    s.enabled .sendClosed = true ↔ s.tState = .tSend ∧ s.linkState = .closed := by simp [State.enabled]

theorem enabled_linkWrite {s : State} {w : WriteAnswer} : s.enabled (.linkWrite w) = true ↔
    s.tState = .tSend ∧ s.linkState = .opened ∧ ∃ t, s.txn? = some t := by
  simp [State.enabled, Option.isSome_iff_exists, and_assoc]

theorem enabled_linkRead {s : State} {w : ReadAnswer} : s.enabled (.linkRead w) = true ↔
    s.tState = .tRecv ∧ ∃ t, s.txn? = some t := by simp [State.enabled, Option.isSome_iff_exists]

theorem enabled_check {s : State} : s.enabled .check = true ↔ s.tState = .tCheck ∧ ∃ t, s.txn? = some t := by
  simp [State.enabled, Option.isSome_iff_exists]

theorem enabled_backoffEnd {s : State} :
    s.enabled .backoffEnd = true ↔ s.tState = .tBackoff ∧ ∃ t, s.txn? = some t := by
  simp [State.enabled, Option.isSome_iff_exists]

/-- What the environment still offers and what has been drawn do not decide whether a move can happen. -/
theorem enabled_offered (s : State) (es : List Event) (n : Nat) (e : Event) :
    ({ s with inputs := es, draws := n } : State).enabled e = s.enabled e :=
  (enabled_inputs { s with draws := n } es e).trans (enabled_draws s n e)

theorem perform_initOpen {s : State} (w : OpenAnswer) (h : s.tState = .tInit) :
    perform (.linkOpen w) s = .next (s.initOpen w) := if_pos h

section performTxn

variable {s : State} {t : Txn} (ht : s.txn? = some t)

include ht

theorem perform_reconnect (w : OpenAnswer) (h : s.tState = .tReconnect) :
    perform (.linkOpen w) s = .next (s.reconnect t w) := by simp [perform, h, onTxn_some ht]

theorem perform_linkWrite (w : WriteAnswer) : perform (.linkWrite w) s = .next (s.send t w) := by
  simp [perform, onTxn_some ht]

theorem perform_linkRead (w : ReadAnswer) : perform (.linkRead w) s = .next (s.receive t w) := by
  simp [perform, onTxn_some ht]

theorem perform_check : perform .check s = .next (s.checkReply t) := by simp [perform, onTxn_some ht]

theorem perform_backoffEnd : perform .backoffEnd s = .next (s.nextAttempt t) := by
  simp [perform, onTxn_some ht, State.backoffOver]

end performTxn

/-- An event that can happen and stands first is the one the step takes. -/
theorem taken_head {s : State} {e : Event} {rest : List Event} (hi : s.inputs = e :: rest)
    (he : s.enabled e = true) : s.taken = some e := by
  simp [State.taken, hi, firstEnabled_head he]

end Sys2Proof.Machine
end

section
/-! SUPPORT. What a move can do to the ports, the counters and the responses, said once for every event (R150). -/

namespace Sys2Proof.Machine

/-- The event is the end of an attempt after which none is left (R163): a backoff end with all attempts failed, or a
reconnect in the last one. -/
def State.EndsLastAttempt (s : State) (e : Event) : Prop :=
  (e = .backoffEnd ∧ maxAttempts ≤ s.attempt) ∨
    (s.tState = .tReconnect ∧ maxAttempts ≤ s.attempt + 1 ∧ ∃ answer, e = .linkOpen answer)

/-- The ways a move ends, by what becomes of the ports, the counters and the responses. -/
inductive State.Moved (s : State) : Event → State → Prop where
  /-- A delivery: an IDLE port's command is accepted (R153). -/
  | accepted {p : Nat} {c : Command} {s' : State} (idle : s.portState? p = some .idle)
      (stats : s'.stats = s.stats) (ports : s.KeepsOtherPorts s' p) : Moved s (.deliver p c) s'
  /-- A port gets the lock (R154). -/
  | granted (q : Nat) : Moved s (.grant q) (s.grantTo q)
  /-- A transition between a grant and the end of an attempt, or from its end to the next attempt. -/
  | underway {e : Event} {s' : State} (ports : s'.ports = s.ports) (stats : s'.stats = s.stats)
      (responses : s'.responses = s.responses) : Moved s e s'
  /-- The reply is accepted (R160). -/
  | completed (t : Txn) (payload : List Byte) : Moved s .check (s.completeOk t payload)
  /-- The reply is rejected (R159). -/
  | rejected (t : Txn) (err : VerifyError) : Moved s .check (s.softError t err)
  /-- The last attempt is used up (R163), after a backoff or a reconnect that left the state at u. -/
  | failedHard {e : Event} {u : State} (t : Txn) (ports : u.ports = s.ports) (stats : u.stats = s.stats)
      (responses : u.responses = s.responses) (params : u.params = s.params)
      (last : s.EndsLastAttempt e) : Moved s e (u.hardFail t)
  /-- The block is reset (R230). -/
  | reset : Moved s .reset s.resetBlock

/-- Acceptance touches no counter and no port but the one it is for (R153, R26). -/
theorem accept_frame {p : Nat} {c : Command} {s s' : State} (h : accept p c s = .next s') :
    s'.stats = s.stats ∧ s.KeepsOtherPorts s' p := by
  cases hd : decode c with
  | error err =>
    rw [accept_error s hd] at h
    cases h
    exact ⟨rfl, rfl, fun _ _ => rfl⟩
  | ok i =>
    have hexec : exec i { s with issuer := p } = .next s' := by rw [← h, accept, hd]
    have set_other (x : Port) : s.KeepsOtherPorts (s.setPort p x) p :=
      ⟨by simp, fun q hq => List.getElem?_set_ne hq.symm⟩
    obtain ⟨x, -, ⟨acc, code, data, rfl⟩ | ⟨a, f, frame, -, -, rfl⟩⟩ := exec_next hexec
    · exact ⟨rfl, set_other _⟩
    · exact ⟨rfl, set_other _⟩

/-- The transition after an attempt is the next attempt, or the hard failure of the last one (R161 to R163). -/
theorem nextAttempt_moved {s u : State} {e : Event} (t : Txn) (ports : u.ports = s.ports) (stats : u.stats = s.stats)
    (responses : u.responses = s.responses) (params : u.params = s.params)
    (last : maxAttempts ≤ u.attempt → s.EndsLastAttempt e) : s.Moved e (u.nextAttempt t) := by
  by_cases hleft : u.attempt < maxAttempts
  · rw [nextAttempt_retry t hleft]
    exact .underway ports stats responses
  · rw [nextAttempt_hardFail t hleft]
    exact .failedHard t ports stats responses params (last (Nat.le_of_not_lt hleft))

/-- Every move that can happen ends in one of the ways of `State.Moved`. -/
theorem perform_moved {s s' : State} {e : Event} (he : s.enabled e = true) (h : perform e s = .next s') :
    s.Moved e s' := by
  cases e with
  | deliver p c =>
    obtain ⟨stats, ports⟩ := accept_frame h
    exact .accepted (enabled_deliver.1 he) stats ports
  | linkOpen w =>
    rcases enabled_linkOpen.1 he with hinit | ⟨hrec, t, ht⟩
    · rw [perform_initOpen w hinit] at h
      cases h
      exact .underway rfl rfl rfl
    · rw [perform_reconnect ht w hrec] at h
      cases h
      exact nextAttempt_moved t rfl rfl rfl rfl fun hlast => .inr ⟨hrec, hlast, w, rfl⟩
  | grant q => cases h; exact .granted q
  | sendClosed => cases h; exact .underway rfl rfl rfl
  | linkWrite w =>
    obtain ⟨-, -, t, ht⟩ := enabled_linkWrite.1 he
    rw [perform_linkWrite ht] at h
    cases h
    cases w <;> exact .underway rfl rfl rfl
  | linkRead w =>
    obtain ⟨-, t, ht⟩ := enabled_linkRead.1 he
    rw [perform_linkRead ht] at h
    cases h
    cases w <;> exact .underway rfl rfl rfl
  | check =>
    obtain ⟨-, t, ht⟩ := enabled_check.1 he
    rw [perform_check ht] at h
    cases h
    cases hv : verify s.params.crcTable t.a t.f s.rxbuf with
    | ok payload => rw [checkReply_ok hv]; exact .completed t payload
    | err err => rw [checkReply_err hv]; exact .rejected t err
  | backoffEnd =>
    obtain ⟨-, t, ht⟩ := enabled_backoffEnd.1 he
    rw [perform_backoffEnd ht] at h
    cases h
    exact nextAttempt_moved t rfl rfl rfl rfl fun hlast => .inl ⟨rfl, hlast⟩
  | reset => cases h; exact .reset

/-- What a move does to one counter (R181): nothing, or `sat_inc` in a check or at the end of the last attempt, or a
reset to 0. -/
theorem State.Moved.stat_cases {s s' : State} {e : Event} (h : s.Moved e s') (a : Nat) (d : Dir) (k : Counter) :
    s'.stat a d k = s.stat a d k ∨
      (s'.stat a d k = satInc s.params.ctrW (s.stat a d k) ∧
        ((e = .check ∧ k ≠ .hard) ∨ ((k = .hard ∨ k = .txn) ∧ s.EndsLastAttempt e))) ∨
      (e = .reset ∧ s'.inputs = s.inputs ∧ s'.stat a d k = 0) := by
  cases h with
  | accepted _ stats _ => exact .inl (stat_congr stats a d k)
  | granted q => exact .inl (stat_congr (s.grantTo_stats q) a d k)
  | underway _ stats _ => exact .inl (stat_congr stats a d k)
  | completed t payload =>
    rw [stat_congr (s.completeOk_stats t payload)]
    rcases incStat_stat_cases s t.a.toNat t.f .txn a d k with hkeep | ⟨rfl, hinc⟩
    · exact .inl hkeep
    · exact .inr (.inl ⟨hinc, .inl ⟨rfl, by decide⟩⟩)
  | rejected t err =>
    rw [stat_congr (s.softError_stats t err)]
    rcases incStat_stat_cases s t.a.toNat t.f err.bucket a d k with hkeep | ⟨rfl, hinc⟩
    · exact .inl hkeep
    · exact .inr (.inl ⟨hinc, .inl ⟨rfl, err.bucket_ne_hard⟩⟩)
  | @failedHard _ u t _ stats _ params last =>
    rw [← params, ← stat_congr stats a d k]
    rcases hardFail_stat_cases u t a d k with hkeep | ⟨hk, hinc⟩
    · exact .inl hkeep
    · exact .inr (.inl ⟨hinc, .inr ⟨hk, last⟩⟩)
  | reset => exact .inr (.inr ⟨rfl, rfl, resetBlock_stat s a d k⟩)

/-- A move that is no check, no reset and not the end of the last attempt leaves the counters as they are. -/
theorem State.Moved.stats_eq {s s' : State} {e : Event} (h : s.Moved e s') (hcheck : e ≠ .check) (hreset : e ≠ .reset)
    (hlast : ¬ s.EndsLastAttempt e) : s'.stats = s.stats := by
  cases h with
  | accepted _ stats _ => exact stats
  | granted q => exact s.grantTo_stats q
  | underway _ stats _ => exact stats
  | completed => exact absurd rfl hcheck
  | rejected => exact absurd rfl hcheck
  | failedHard _ _ _ _ _ last => exact absurd last hlast
  | reset => exact absurd rfl hreset

/-- A step makes the move of the event it takes, or moves the draw counter only; a reset it takes is a listed one. -/
theorem step_moved {s s' : State} (h : step s = .next s') :
    (∃ e es n, s.taken = some e ∧ ({ s with inputs := es, draws := n } : State).Moved e s' ∧
        (e = .reset → firstEnabled s s.inputs = some (.reset, es))) ∨
      s' = { s with draws := s.draws + 1 } := by
  rcases step_of_taken s with ⟨e, es, n, htaken, he, hs, hlisted⟩ | ⟨-, hs⟩
  · refine .inl ⟨e, es, n, htaken, perform_moved ((enabled_offered s es n e).trans he) (hs ▸ h), ?_⟩
    rintro rfl
    obtain ⟨es', hes'⟩ := taken_reset htaken
    rcases hlisted with hfirst | ⟨hnone, -⟩
    · exact hfirst
    · rw [hnone] at hes'; cases hes'
  · rw [hs] at h; cases h; exact .inr rfl

end Sys2Proof.Machine
end

section
/-! SUPPORT. The readers of a port after an update of one port's PORT_STATE, and the lock owner's operands, which are
in range within the invariant (R22, R74). -/

namespace Sys2Proof.Machine

theorem cmd?_congr {s u : State} {p : Nat} (h : u.ports[p]? = s.ports[p]?) : u.cmd? p = s.cmd? p := by
  simp only [State.cmd?, h]

theorem portState?_congr {s u : State} {p : Nat} (h : u.ports[p]? = s.ports[p]?) :
    u.portState? p = s.portState? p := by
  simp only [State.portState?, h]

section modifyState

variable {s u : State} {q : Nat} {st : PortState}
  (h : u.ports = s.ports.modify q (fun x => { x with state := st }))

include h

theorem cmd?_of_modify_state (p : Nat) : u.cmd? p = s.cmd? p := by
  simp only [State.cmd?, h, List.getElem?_modify]
  cases s.ports[p]? with
  | none => rfl
  | some x => by_cases hq : q = p <;> simp [hq]

theorem portState?_of_modify_state_ne {p : Nat} (hne : q ≠ p) : u.portState? p = s.portState? p :=
  portState?_congr (by rw [h]; exact List.getElem?_modify_ne _ _ hne)

theorem portState?_of_modify_state_eq {old : PortState} (hq : s.portState? q = some old) :
    u.portState? q = some st := by
  obtain ⟨x, hx, -⟩ := portState?_eq_some.1 hq
  exact portState?_eq_some.2 ⟨{ x with state := st }, by simp [h, hx], rfl⟩

end modifyState

/-- The transaction of a lock owner, as its command has it. -/
theorem txn_of_cmd {s : State} {p : Nat} {c : Command} (hlock : s.lockOwner = some p) (hcmd : s.cmd? p = some c) :
    s.txn? = some ⟨p, addrField c.word, dirField c.word, c.data⟩ := by
  obtain ⟨x, hx, rfl⟩ := cmd?_eq_some.1 hcmd
  simp [State.txn?, hlock, hx]

/-- A legal `PORT_CMD` carries an address of the block (R74). -/
theorem addr_of_commandIsExec {ps : Params} {c : Command} (h : commandIsExec ps c = true) :
    1 ≤ (addrField c.word).toNat ∧ (addrField c.word).toNat ≤ 32 := by
  unfold commandIsExec at h
  split at h
  next a f frame hd =>
    obtain ⟨op, -, -, -, hinstr⟩ := decode_eq_ok.1 hd
    have ha : a = addrField c.word := by cases op <;> simp_all [Opcode.instr]
    simp only [busExecOk, Bool.and_eq_true] at h
    obtain ⟨⟨-, haddr⟩, -⟩ := h
    exact ha ▸ addrOk_iff.1 haddr
  next => cases h

/-- Within the invariant the lock owner's command is legal, so its address is one of the block's. -/
theorem addr_of_lockOwner {s : State} {p : Nat} {c : Command} (hinv : s.Inv) (hlock : s.lockOwner = some p)
    (hcmd : s.cmd? p = some c) : 1 ≤ (addrField c.word).toNat ∧ (addrField c.word).toNat ≤ 32 := by
  obtain ⟨-, ⟨-, hrange, hactive⟩, -, -, hcmds⟩ := hinv
  have hstate : s.portState? p = some .active := (hactive p (hrange p hlock)).2 hlock
  obtain ⟨x, hx, rfl⟩ := cmd?_eq_some.1 hcmd
  obtain ⟨y, hy, hbusy⟩ := portState?_eq_some.1 hstate
  obtain rfl : x = y := Option.some.inj (hx.symm.trans hy)
  exact addr_of_commandIsExec (hcmds x (List.mem_of_getElem? hx) (by simp [hbusy]))

end Sys2Proof.Machine
end

section
/-! PROOFS. The statements about failed attempts and the counters (R155, R159, R181, R182). -/

namespace Sys2Proof.Machine

/-- Settles O29: the send on a closed link can happen, so the step makes its move. -/
theorem sendOnAClosedLinkReconnects : Obligations.SendOnAClosedLinkReconnects := by
  intro s rest hsend hclosed hi
  exact step_head hi (enabled_sendClosed.2 ⟨hsend, hclosed⟩)

/-- Settles O33: the move is `softError` for the lock owner's command, whose address the invariant puts in range. -/
theorem rejectedReplyIsOneSoftError : Obligations.RejectedReplyIsOneSoftError := by
  intro s p c e rest hinv hcheck hlock hcmd hi hverify
  have ht := txn_of_cmd hlock hcmd
  obtain ⟨hlow, hhigh⟩ := addr_of_lockOwner hinv hlock hcmd
  obtain ⟨⟨-, hlen, -⟩, -⟩ := hinv
  let s₁ : State := { s with inputs := rest }
  have hstep : step s = .next (s₁.softError ⟨p, addrField c.word, dirField c.word, c.data⟩ e) := by
    rw [step_head hi (enabled_check.2 ⟨hcheck, _, ht⟩), perform_check (s := s₁) ht, checkReply_err hverify]
  refine ⟨_, e.bucket, hstep, by cases e <;> rfl, fun b d k => ?_, ?_⟩
  · rw [stat_congr (State.softError_stats _ _ _)]
    exact incStat_stat (s := s₁) _ _ hlen hlow hhigh b d k
  · unfold State.softError State.incStat
    split <;> rfl

/-- Settles O44: `State.Moved.stat_cases` of the move the step makes. -/
theorem countersOnlyGrow : Obligations.CountersOnlyGrow := by
  intro s s' a d k hstep
  rcases step_moved hstep with ⟨e, es, n, htaken, hmoved, hlisted⟩ | rfl
  · rcases hmoved.stat_cases a d k with hkeep | ⟨hinc, hwhen⟩ | ⟨rfl, hinputs, hzero⟩
    · exact .inl hkeep
    · refine .inr (.inl ⟨hinc, hinc.symm ▸ le_satInc _ _, ?_⟩)
      rcases hwhen with ⟨rfl, hk⟩ | ⟨hk, ⟨rfl, hlast⟩ | ⟨hrec, hlast, answer, rfl⟩⟩
      · exact .inl ⟨htaken, hk⟩
      · exact .inr ⟨hk, .inl ⟨htaken, hlast⟩⟩
      · exact .inr ⟨hk, .inr ⟨hrec, hlast, answer, htaken⟩⟩
    · exact .inr (.inr ⟨htaken, by rw [hinputs]; exact hlisted rfl, hzero⟩)
  · exact .inl rfl

/-- Settles O36: the event taken is none that O44 lets count in a soft-error bucket, and with an attempt left after it
none that counts at all. -/
theorem connectionFailuresCountNothing : Obligations.ConnectionFailuresCountNothing := by
  intro s s' e rest hi he hfailure hstep
  obtain ⟨hcheck, hreset, hbackoff⟩ : e ≠ .check ∧ e ≠ .reset ∧ e ≠ .backoffEnd := by
    rcases hfailure with rfl | rfl | rfl | ⟨answer, rfl⟩ <;> simp
  constructor
  · intro a d k hsoft
    have htaken (x : Event) (hx : e ≠ x) : s.taken ≠ some x := by simpa [taken_head hi he] using hx
    rcases countersOnlyGrow s s' a d k hstep with hkeep | ⟨-, -, ⟨hx, -⟩ | ⟨hk, -⟩⟩ | ⟨hx, -⟩
    · exact hkeep
    · exact absurd hx (htaken _ hcheck)
    · rcases hsoft with rfl | rfl | rfl <;> simp at hk
    · exact absurd hx (htaken _ hreset)
  · intro hleft
    rw [step_head hi he] at hstep
    refine (perform_moved ((enabled_inputs s rest e).trans he) hstep).stats_eq hcheck hreset ?_
    rintro (⟨hend, -⟩ | ⟨-, hused, answer, hopen⟩)
    · exact hbackoff hend
    · exact absurd (hleft answer hopen) (Nat.not_lt.2 hused)

end Sys2Proof.Machine
end

section
/-! SUPPORT. What a move does to a command that is not answered yet (R168). -/

namespace Sys2Proof.Machine

/-- Port p has a command that is not answered yet (R22). -/
abbrev State.Busy (s : State) (p : Nat) : Prop := s.portState? p = some .waiting ∨ s.portState? p = some .active

/-- Port p keeps its command, and is busy still or has just been answered (R168). -/
abbrev State.KeepsCommand (s s' : State) (p : Nat) : Prop :=
  s'.cmd? p = s.cmd? p ∧
    (s'.Busy p ∨ (s'.portState? p = some .idle ∧ ∃ r, s'.responses = r :: s.responses ∧ r.port = p))

theorem keepsCommand_of_port_eq {s s' : State} {p : Nat} (hbusy : s.Busy p) (h : s'.ports[p]? = s.ports[p]?) :
    s.KeepsCommand s' p :=
  ⟨cmd?_congr h, .inl (by rwa [State.Busy, portState?_congr h])⟩

/-- The release of a port in the step that answers it takes no command away from any port (R165). -/
theorem keepsCommand_of_release {s s' : State} {p q : Nat} {r : Response} (hbusy : s.Busy p)
    (hports : s'.ports = s.ports.modify q (fun x => { x with state := .idle }))
    (hresp : s'.responses = r :: s.responses) (hr : r.port = q) : s.KeepsCommand s' p := by
  refine ⟨cmd?_of_modify_state hports p, ?_⟩
  by_cases hq : q = p
  · subst hq
    have hidle : s'.portState? q = some .idle := hbusy.elim (portState?_of_modify_state_eq hports)
      (portState?_of_modify_state_eq hports)
    exact .inr ⟨hidle, r, hresp, hr⟩
  · exact .inl (by rwa [State.Busy, portState?_of_modify_state_ne hports hq])

/-- A grant takes no command away: the port it is for becomes ACTIVE (R154). -/
theorem keepsCommand_grantTo {s : State} {p : Nat} (hbusy : s.Busy p) (q : Nat) : s.KeepsCommand (s.grantTo q) p := by
  have hports := s.grantTo_ports q
  refine ⟨cmd?_of_modify_state hports p, .inl ?_⟩
  by_cases hq : q = p
  · subst hq
    exact .inr (hbusy.elim (portState?_of_modify_state_eq hports) (portState?_of_modify_state_eq hports))
  · rwa [State.Busy, portState?_of_modify_state_ne hports hq]

/-- No move but a reset takes a busy port's command away; a delivery is to an IDLE port, so to another one. -/
theorem State.Moved.keepsCommand {s s' : State} {e : Event} {p : Nat} (h : s.Moved e s') (hreset : e ≠ .reset)
    (hbusy : s.Busy p) : s.KeepsCommand s' p := by
  cases h with
  | accepted idle _ ports =>
    obtain ⟨-, others⟩ := ports
    refine keepsCommand_of_port_eq hbusy (others p ?_)
    rintro rfl
    simp [State.Busy, idle] at hbusy
  | granted q => exact keepsCommand_grantTo hbusy q
  | underway ports _ _ => exact keepsCommand_of_port_eq hbusy (by rw [ports])
  | completed t payload =>
    exact keepsCommand_of_release hbusy (s.completeOk_ports t payload) (s.completeOk_responses t payload) rfl
  | rejected t err => exact keepsCommand_of_port_eq hbusy (by rw [State.softError_ports])
  | @failedHard _ u t ports _ responses _ _ =>
    exact keepsCommand_of_release (q := t.p) hbusy ((u.hardFail_ports t).trans (by rw [ports]))
      ((u.hardFail_responses t).trans (by rw [responses])) rfl
  | reset => exact absurd rfl hreset

end Sys2Proof.Machine
end

section
/-! PROOFS. The statement that no command is taken away before its response (R168). -/

namespace Sys2Proof.Machine

/-- Settles O50: `State.Moved.keepsCommand` of the move the step makes. -/
theorem commandsAreNotCancelled : Obligations.CommandsAreNotCancelled := by
  intro s s' p hreset hbusy hstep
  have hkeeps : s.KeepsCommand s' p := by
    rcases step_moved hstep with ⟨e, es, n, htaken, hmoved, -⟩ | rfl
    · exact hmoved.keepsCommand (fun he => hreset (he ▸ htaken)) hbusy
    · exact keepsCommand_of_port_eq hbusy rfl
  exact hkeeps.imp_right or_assoc.1

end Sys2Proof.Machine
end

section
/-! SUPPORT. Words by their bits and by their values: the mask of each row of the opcode table, and each format's word
as a sum of shifted fields (R62 to R68, R81). -/

namespace Sys2Proof

/-- The mask of a row of the opcode table: the bits that the opcode and the format's reserved bits fix. -/
def Format.mask : Format → CmdWord
  | .n => 0xFFFFFFFF
  | .b => 0xFFFF00FF
  | .ao => 0x000000FF
  | .af => 0xFFFE00FF
  | .as => 0xFFF000FF

/-- The mask has the opcode's bits and those from `firstReserved` up. -/
theorem Format.mask_eq (f : Format) :
    f.mask = (BitVec.allOnes 8).setWidth 32 ||| BitVec.allOnes 32 <<< f.firstReserved := by
  cases f <;> decide

theorem Format.eight_le_firstReserved (f : Format) : 8 ≤ f.firstReserved := by cases f <;> decide

/-- Under a mask of the bits below m and those from k up, a word is b exactly if its low m bits are b and nothing is
left from k up. -/
theorem and_mask_eq_setWidth_iff {n m k : Nat} (hmn : m ≤ n) (hmk : m ≤ k) {w : BitVec n} {b : BitVec m} :
    w &&& ((BitVec.allOnes m).setWidth n ||| BitVec.allOnes n <<< k) = b.setWidth n ↔
      w.extractLsb' 0 m = b ∧ w >>> k = 0#n := by
  constructor
  · intro h
    have hbit (i : Nat) := congrArg (BitVec.getLsbD · i) h
    constructor
    · ext i hi
      simpa [hi, show i < n by omega, show ¬k ≤ i by omega] using hbit i
    · ext i hi
      rw [BitVec.getElem_ushiftRight]
      by_cases hin : k + i < n
      · simpa [hin, show ¬k + i < m by omega, BitVec.getLsbD_of_ge b (k + i) (by omega)] using hbit (k + i)
      · simpa using BitVec.getLsbD_of_ge w (k + i) (Nat.le_of_not_lt hin)
  · rintro ⟨rfl, h⟩
    ext i hi
    by_cases hk : i < k
    · simp [hk, hi, Bool.and_comm]
    · have hbit := congrArg (BitVec.getLsbD · (i - k)) h
      have hki : k + (i - k) = i := by omega
      have hwi : w[i] = false := by simpa [hki, hi] using hbit
      simp [hi, hwi]

/-- A word matches a row of the opcode table exactly if it names the row's opcode and its reserved bits are 0. -/
theorem and_mask_eq_iff {op : Opcode} {w : CmdWord} :
    w &&& op.format.mask = op.byte.setWidth 32 ↔ opField w = op.byte ∧ op.format.reservedClear w = true := by
  rw [reservedClear_iff, Format.mask_eq]
  exact and_mask_eq_setWidth_iff (by decide) op.format.eight_le_firstReserved

/-- The row of the opcode table of each command: the match, the mask, whether it takes data. -/
def Opcode.row (op : Opcode) : CmdWord × CmdWord × Bool :=
  (op.byte.setWidth 32, op.format.mask, op.format.takesData)

/-- The opcodes in the order of the opcode table. -/
def Opcode.all : List Opcode := [.crcInit, .crcUpdate, .crcFinish, .frmRead, .frmWrite, .frmVerify, .busExec, .statRead]

theorem Opcode.mem_all (op : Opcode) : op ∈ Opcode.all := by cases op <;> decide

theorem exists_decode_iff {c : Command} : (∃ i, decode c = .ok i) ↔
    ∃ op : Opcode, c.word &&& op.row.2.1 = op.row.1 ∧ (op.row.2.2 = true ∨ c.data = []) := by
  simp only [decode_eq_ok, Opcode.row, and_mask_eq_iff]
  constructor
  · rintro ⟨_, op, hop, hres, hdata, -⟩
    exact ⟨op, ⟨hop, hres⟩, (Bool.eq_false_or_eq_true _).imp_right hdata⟩
  · rintro ⟨op, ⟨hop, hres⟩, hdata⟩
    exact ⟨_, op, hop, hres, fun hno => hdata.resolve_left (by simp [hno]), rfl⟩

theorem toNat_append_eq_add {m n : Nat} (x : BitVec m) (y : BitVec n) : (x ++ y).toNat = x.toNat * 2 ^ n + y.toNat := by
  rw [BitVec.toNat_append, ← Nat.shiftLeft_add_eq_or_of_lt y.isLt, Nat.shiftLeft_eq]

theorem Dir.toNat_bit (f : Dir) : f.bit.toNat = Machine.dirIndex f := by cases f <;> rfl

theorem toNat_wordB (op b : Byte) : (wordB op b).toNat = op.toNat + b.toNat * 2 ^ 8 := by
  rw [wordB, toNat_append_eq_add, toNat_append_eq_add]
  simp
  omega

theorem toNat_wordAO (op a : Byte) (off : Half) :
    (wordAO op a off).toNat = op.toNat + a.toNat * 2 ^ 8 + off.toNat * 2 ^ 16 := by
  rw [wordAO, toNat_append_eq_add, toNat_append_eq_add]
  omega

theorem toNat_wordAF (op a : Byte) (f : Dir) :
    (wordAF op a f).toNat = op.toNat + a.toNat * 2 ^ 8 + Machine.dirIndex f * 2 ^ 16 := by
  rw [wordAF, toNat_append_eq_add, toNat_append_eq_add, toNat_append_eq_add, f.toNat_bit]
  simp
  omega

theorem toNat_wordAS (op a : Byte) (d : Dir) (c : BitVec 3) : (wordAS op a d c).toNat =
    op.toNat + a.toNat * 2 ^ 8 + Machine.dirIndex d * 2 ^ 16 + c.toNat * 2 ^ 17 := by
  rw [wordAS, toNat_append_eq_add, toNat_append_eq_add, toNat_append_eq_add, toNat_append_eq_add, d.toNat_bit]
  simp
  omega

/-- The response codes in the order of R71's table. -/
def Machine.RespCode.all : List Machine.RespCode :=
  [.ok, .hardFailure, .noData, .checksum, .protocol, .badOperand, .illegalCmd]

theorem Machine.RespCode.mem_all (c : Machine.RespCode) : c ∈ Machine.RespCode.all := by cases c <;> decide

/-- What each command's word is, for every command at once (Laws/PerInstr.lean). -/
theorem encodedWord (i : Instr) : Laws.EncodedWord.Statement i := by
  cases i with
  | crcInit => exact Laws.EncodedWord.crcInit
  | crcUpdate b => exact Laws.EncodedWord.crcUpdate b
  | crcFinish => exact Laws.EncodedWord.crcFinish
  | frmRead a => exact Laws.EncodedWord.frmRead a
  | frmWrite a off d => exact Laws.EncodedWord.frmWrite a off d
  | frmVerify a f d => exact Laws.EncodedWord.frmVerify a f d
  | busExec a f d => exact Laws.EncodedWord.busExec a f d
  | statRead a d c => exact Laws.EncodedWord.statRead a d c

/-- The operands of a command, read back from its encoding. -/
theorem instr_encode (i : Instr) : i.opcode.instr (encode i) = i := by
  cases i <;> simp [Instr.opcode, Opcode.instr, encode]

theorem decode_encode (i : Instr) : decode (encode i) = .ok i := by
  obtain ⟨hop, hres, hdata⟩ := encodedWord i
  exact decode_eq_ok.2 ⟨i.opcode, hop, hres, hdata, (instr_encode i).symm⟩

/-- A delivery that passes the checks of R72 and R73 is the encoding of the command with its fields. -/
theorem encode_instr {op : Opcode} {c : Command} (hop : opField c.word = op.byte)
    (hres : op.format.reservedClear c.word = true) (hdata : op.format.takesData = false → c.data = []) :
    encode (op.instr c) = c := by
  obtain ⟨w, data⟩ := c
  cases op with
  | crcInit => simp only [Opcode.instr, encode, ← hop, wordN_of_fields hres, show data = [] from hdata rfl]
  | crcUpdate => simp only [Opcode.instr, encode, ← hop, wordB_of_fields hres, show data = [] from hdata rfl]
  | crcFinish => simp only [Opcode.instr, encode, ← hop, wordN_of_fields hres, show data = [] from hdata rfl]
  | frmRead => simp only [Opcode.instr, encode, ← hop, wordB_of_fields hres, show data = [] from hdata rfl]
  | frmWrite => simp only [Opcode.instr, encode, ← hop, wordAO_of_fields]
  | frmVerify => simp only [Opcode.instr, encode, ← hop, wordAF_of_fields hres]
  | busExec => simp only [Opcode.instr, encode, ← hop, wordAF_of_fields hres]
  | statRead => simp only [Opcode.instr, encode, ← hop, wordAS_of_fields hres, show data = [] from hdata rfl]

end Sys2Proof
end

section
/-! PROOFS. The statements about encoding (R62 to R73, R81) and the response codes (R71). -/

namespace Sys2Proof

/-- Settles O1: the word of a command names its opcode and keeps its operands (`encodedWord`, `instr_encode`). -/
theorem decodeOfEncodeIsTheCommand : Obligations.DecodeOfEncodeIsTheCommand := decode_encode

/-- Settles O2: the checks that decoding passed are those under which the fields make up the whole delivery. -/
theorem encodeOfDecodeIsTheDelivery : Obligations.EncodeOfDecodeIsTheDelivery := by
  intro c i h
  obtain ⟨op, hop, hres, hdata, rfl⟩ := decode_eq_ok.1 h
  exact encode_instr hop hres hdata

/-- Settles O3: the table's rows are the rows of the eight opcodes. -/
theorem decodeAcceptsExactlyTheTableRows : Obligations.DecodeAcceptsExactlyTheTableRows := by
  intro c
  rw [exists_decode_iff]
  constructor
  · rintro ⟨op, h⟩
    exact ⟨op.row, List.mem_map_of_mem op.mem_all, h⟩
  · rintro ⟨row, hrow, h⟩
    obtain ⟨op, -, rfl⟩ := List.mem_map.1 (show row ∈ Opcode.all.map Opcode.row from hrow)
    exact ⟨op, h⟩

/-- Settles O4: the value of each format's word is the opcode plus the shifted fields. -/
theorem encodedWordsAreTheSyntaxSums : Obligations.EncodedWordsAreTheSyntaxSums :=
  ⟨rfl, rfl, toNat_wordB _, toNat_wordB _, fun a o _ => toNat_wordAO _ a o, fun a f _ => toNat_wordAF _ a f,
    fun a f _ => toNat_wordAF _ a f, toNat_wordAS _⟩

/-- Settles O5: each is the encoding of the command, by its fields. -/
theorem workedEncodingsDecode : Obligations.WorkedEncodingsDecode :=
  ⟨decode_encode (.crcUpdate 0x81), decode_encode (.frmWrite 3 18 [22]), decode_encode (.busExec 5 .read [1]),
    decode_encode (.statRead 5 .write 4)⟩

/-- Settles O54: the table of R71, code by code, has no value twice. -/
theorem responseCodesAreTheTable : Obligations.ResponseCodesAreTheTable := by
  have different : (Machine.RespCode.all.map Machine.RespCode.byte).Nodup := by decide
  refine ⟨rfl, rfl, rfl, rfl, rfl, rfl, rfl, fun c d h => ?_, fun c => ?_⟩
  · exact List.inj_on_of_nodup_map different c.mem_all d.mem_all h
  · cases c <;> decide

end Sys2Proof
end

section
/-! SUPPORT. What a move does in full, said once for every event (R150): when it can happen and the state it ends in.
`State.Moved` above says less, for the statements about ports and counters alone. -/

namespace Sys2Proof.Machine

/-- The transport after the close and the open of a reconnect, before it is decided what follows the attempt (R162). -/
def State.reopened (s : State) (t : Txn) (w : OpenAnswer) : State :=
  { s with
    linkLog := .opening (some t.p) w :: .close t.p :: s.linkLog, linkState := linkAfterOpen w,
    attempt := s.attempt + 1 }

theorem reconnect_eq (s : State) (t : Txn) (w : OpenAnswer) : s.reconnect t w = (s.reopened t w).nextAttempt t := rfl

theorem send_eq (s : State) (t : Txn) (w : WriteAnswer) : s.send t w =
    { s with linkLog := .write t.p t.frame w :: s.linkLog, tState := if w = .ok then .tRecv else .tReconnect } := by
  cases w <;> rfl

theorem enabled_grant {s : State} {q : Nat} : s.enabled (.grant q) = true ↔
    s.tState = .tIdle ∧ s.lockOwner = none ∧ s.portState? q = some .waiting := by simp [State.enabled, and_assoc]

/-- Event `e` can happen in `s`, and `s'` is what its move leaves. -/
inductive State.Turn (s : State) : Event → State → Prop where
  /-- A command is answered at its acceptance, changing at most the port's accumulator (R153, R72, R73). -/
  | answered {p : Nat} {c : Command} {x : Port} (port : s.ports[p]? = some x) (idle : x.state = .idle) (acc : Acc)
      (code : RespCode) (data : List Byte) :
      Turn s (.deliver p c) ((({ s with issuer := p } : State).setPort p (x.setAcc acc)).respond p code data 0)
  /-- A legal BUS.EXEC waits for the lock (R152). -/
  | accepted {p : Nat} {c : Command} {x : Port} {a : Byte} {f : Dir} {frame : List Byte}
      (port : s.ports[p]? = some x) (idle : x.state = .idle) (legal : busExecOk s.params a frame = true) :
      Turn s (.deliver p c)
        (({ s with issuer := p } : State).setPort p { x with state := .waiting, cmd := encode (.busExec a f frame) })
  /-- The open of T_INIT (R151). -/
  | opened (stands : s.tState = .tInit) (w : OpenAnswer) : Turn s (.linkOpen w) (s.initOpen w)
  /-- A grant (R154). -/
  | granted {q : Nat} (stands : s.tState = .tIdle) (free : s.lockOwner = none)
      (waiting : s.portState? q = some .waiting) : Turn s (.grant q) (s.grantTo q)
  /-- A send on a closed link (R155). -/
  | foundClosed (stands : s.tState = .tSend) (link : s.linkState = .closed) : Turn s .sendClosed s.sendOnClosed
  /-- A send (R156). -/
  | sent {t : Txn} (txn : s.txn? = some t) (stands : s.tState = .tSend) (link : s.linkState = .opened)
      (w : WriteAnswer) : Turn s (.linkWrite w) (s.send t w)
  /-- A read window ends (R157). -/
  | received {t : Txn} (txn : s.txn? = some t) (stands : s.tState = .tRecv) (w : ReadAnswer) :
      Turn s (.linkRead w) (s.receive t w)
  /-- The reply is accepted (R160). -/
  | completed {t : Txn} (txn : s.txn? = some t) (stands : s.tState = .tCheck) (payload : List Byte) :
      Turn s .check (s.completeOk t payload)
  /-- The reply is rejected (R159). -/
  | rejected {t : Txn} (txn : s.txn? = some t) (stands : s.tState = .tCheck) (err : VerifyError) :
      Turn s .check (s.softError t err)
  /-- A backoff ends with an attempt left (R161). -/
  | retried {t : Txn} (txn : s.txn? = some t) (stands : s.tState = .tBackoff) (left : s.attempt < maxAttempts) :
      Turn s .backoffEnd { s with tState := .tSend }
  /-- A backoff ends with none left (R163). -/
  | gaveUp {t : Txn} (txn : s.txn? = some t) (stands : s.tState = .tBackoff) (none_left : ¬ s.attempt < maxAttempts) :
      Turn s .backoffEnd (s.hardFail t)
  /-- A reconnect with an attempt left (R162). -/
  | reconnected {t : Txn} (txn : s.txn? = some t) (stands : s.tState = .tReconnect) (w : OpenAnswer)
      (left : s.attempt + 1 < maxAttempts) : Turn s (.linkOpen w) { s.reopened t w with tState := .tSend }
  /-- A reconnect in the last attempt (R162, R163). -/
  | lost {t : Txn} (txn : s.txn? = some t) (stands : s.tState = .tReconnect) (w : OpenAnswer)
      (none_left : ¬ s.attempt + 1 < maxAttempts) : Turn s (.linkOpen w) ((s.reopened t w).hardFail t)
  /-- The block is reset (R230). -/
  | reset : Turn s .reset s.resetBlock

theorem accept_ok {p : Nat} {c : Command} {i : Instr} (s : State) (h : decode c = .ok i) :
    accept p c s = exec i { s with issuer := p } := by
  rw [accept, h]

/-- What acceptance at an IDLE port does (R153): answer at once, or leave the port waiting. -/
theorem accept_turn {s s' : State} {p : Nat} {c : Command} (hidle : s.portState? p = some .idle)
    (h : accept p c s = .next s') : s.Turn (.deliver p c) s' := by
  obtain ⟨x, hx, hstate⟩ := portState?_eq_some.1 hidle
  cases hd : decode c with
  | error err =>
    rw [accept_error s hd] at h
    cases h
    have hsame : ({ s with issuer := p } : State).setPort p (x.setAcc x.acc) = { s with issuer := p } :=
      setPort_self hx
    exact hsame ▸ .answered hx hstate x.acc .illegalCmd []
  | ok i =>
    rw [accept_ok s hd] at h
    obtain ⟨y, hy, ⟨acc, code, data, rfl⟩ | ⟨a, f, frame, rfl, hlegal, rfl⟩⟩ := exec_next h
    all_goals obtain rfl : x = y := Option.some.inj (hx.symm.trans hy)
    · exact .answered hx hstate acc code data
    · exact .accepted hx hstate hlegal

/-- Every move that can happen is a turn. -/
theorem perform_turn {s s' : State} {e : Event} (he : s.enabled e = true) (h : perform e s = .next s') :
    s.Turn e s' := by
  cases e with
  | deliver p c => exact accept_turn (enabled_deliver.1 he) h
  | linkOpen w =>
    rcases enabled_linkOpen.1 he with hinit | ⟨hrec, t, ht⟩
    · rw [perform_initOpen w hinit] at h
      cases h
      exact .opened hinit w
    · rw [perform_reconnect ht w hrec, reconnect_eq] at h
      cases h
      by_cases hleft : s.attempt + 1 < maxAttempts
      · rw [nextAttempt_retry t (s := s.reopened t w) hleft]
        exact .reconnected ht hrec w hleft
      · rw [nextAttempt_hardFail t (s := s.reopened t w) hleft]
        exact .lost ht hrec w hleft
  | grant q =>
    obtain ⟨hidle, hfree, hwaiting⟩ := enabled_grant.1 he
    cases h
    exact .granted hidle hfree hwaiting
  | sendClosed =>
    obtain ⟨hsend, hclosed⟩ := enabled_sendClosed.1 he
    cases h
    exact .foundClosed hsend hclosed
  | linkWrite w =>
    obtain ⟨hsend, hopen, t, ht⟩ := enabled_linkWrite.1 he
    rw [perform_linkWrite ht] at h
    cases h
    exact .sent ht hsend hopen w
  | linkRead w =>
    obtain ⟨hrecv, t, ht⟩ := enabled_linkRead.1 he
    rw [perform_linkRead ht] at h
    cases h
    exact .received ht hrecv w
  | check =>
    obtain ⟨hcheck, t, ht⟩ := enabled_check.1 he
    rw [perform_check ht] at h
    cases h
    cases hv : verify s.params.crcTable t.a t.f s.rxbuf with
    | ok payload => rw [checkReply_ok hv]; exact .completed ht hcheck payload
    | err err => rw [checkReply_err hv]; exact .rejected ht hcheck err
  | backoffEnd =>
    obtain ⟨hback, t, ht⟩ := enabled_backoffEnd.1 he
    rw [perform_backoffEnd ht] at h
    cases h
    by_cases hleft : s.attempt < maxAttempts
    · rw [nextAttempt_retry t hleft]
      exact .retried ht hback hleft
    · rw [nextAttempt_hardFail t hleft]
      exact .gaveUp ht hback hleft
  | reset => cases h; exact .reset

/-- A step is the turn of one event, at a state that differs only in what is offered and drawn; else only the draw
counter moves. -/
theorem step_turn {s s' : State} (h : step s = .next s') :
    (∃ e es n, (∀ x ∈ s.inputs, x ∈ es ∨ x = e) ∧ ({ s with inputs := es, draws := n } : State).Turn e s') ∨
      s' = { s with draws := s.draws + 1 } := by
  rcases step_is_a_move h with ⟨e, es, n, he, -, hkept, -, hperform⟩ | hdraws
  · exact .inl ⟨e, es, n, hkept, perform_turn ((enabled_offered s es n e).trans he) hperform⟩
  · exact .inr hdraws

end Sys2Proof.Machine
end

section
/-! SUPPORT. The parts of the invariant (R21, R22, R24, R167) after a change of one port or of the transport alone, and
the ports after an update of one of them. -/

namespace Sys2Proof.Machine

/-- The counters' part of `State.SizesOk` (R21, R13). -/
abbrev State.StatsOk (s : State) : Prop :=
  s.stats.length = statCount ∧ ∀ v ∈ s.stats, v ≤ 2 ^ s.params.ctrW - 1

theorem statsOk_incStat {s : State} (h : s.StatsOk) (a : Nat) (d : Dir) (c : Counter) : (s.incStat a d c).StatsOk := by
  obtain ⟨hlen, hbound⟩ := h
  cases hi : statIndex a d c with
  | none => simpa [State.incStat, hi] using ⟨hlen, hbound⟩
  | some i =>
    have hlt : i < s.stats.length := hlen ▸ statIndex_lt hi
    refine ⟨by simpa using hlen, fun v hv => ?_⟩
    rw [State.incStat_params]
    simp only [State.incStat, hi] at hv
    rcases List.mem_or_eq_of_mem_set hv with hold | rfl
    · exact hbound v hold
    · exact satInc_le (hbound _ (by simp [List.getD, hlt]))

theorem statsOk_congr {s u : State} (h : s.StatsOk) (stats : u.stats = s.stats) (params : u.params = s.params) :
    u.StatsOk := by
  rwa [State.StatsOk, stats, params]

theorem statsOk_completeOk {s : State} (h : s.StatsOk) (t : Txn) (payload : List Byte) :
    (s.completeOk t payload).StatsOk :=
  statsOk_congr (statsOk_incStat h _ _ _) (s.completeOk_stats t payload) (by simp)

theorem statsOk_softError {s : State} (h : s.StatsOk) (t : Txn) (e : VerifyError) : (s.softError t e).StatsOk :=
  statsOk_congr (statsOk_incStat h _ _ _) (s.softError_stats t e) (by simp)

theorem statsOk_hardFail {s : State} (h : s.StatsOk) (t : Txn) : (s.hardFail t).StatsOk :=
  statsOk_congr (statsOk_incStat (statsOk_incStat h _ _ _) _ _ _) (s.hardFail_stats t) (by simp)

/-- An update of one port leaves the others. -/
theorem keepsOtherPorts_modify {s u : State} {q : Nat} {g : Port → Port} (h : u.ports = s.ports.modify q g) :
    s.KeepsOtherPorts u q :=
  ⟨by simp [h], fun r hr => by rw [h, List.getElem?_modify_ne _ _ hr.symm]⟩

theorem keepsOtherPorts_set {s u : State} {q : Nat} {x : Port} (h : u.ports = s.ports.set q x) :
    s.KeepsOtherPorts u q :=
  ⟨by simp [h], fun r hr => by rw [h, List.getElem?_set_ne hr.symm]⟩

theorem commandIsExec_encode (ps : Params) (a : Byte) (f : Dir) (frame : List Byte) :
    commandIsExec ps (encode (.busExec a f frame)) = busExecOk ps a frame := by
  simp only [commandIsExec, decode_encode]

theorem portState?_lt {s : State} {p : Nat} {st : PortState} (h : s.portState? p = some st) : p < s.ports.length := by
  obtain ⟨x, hx, -⟩ := portState?_eq_some.1 h
  exact (List.getElem?_eq_some_iff.1 hx).1

section onePort

variable {s s' : State} {p : Nat}

/-- Mutual exclusion after a change of port p alone, if the lock is p's exactly while p is ACTIVE. -/
theorem lockOk_of_one_port (h : s.LockOk) (others : s.KeepsOtherPorts s' p) (hp : p < s.ports.length)
    (held : s'.lockOwner = none ↔ s'.tState = .tInit ∨ s'.tState = .tIdle)
    (own : s'.portState? p = some .active ↔ s'.lockOwner = some p)
    (elsewhere : ∀ q, q ≠ p → (s'.lockOwner = some q ↔ s.lockOwner = some q)) : s'.LockOk := by
  obtain ⟨-, hrange, hactive⟩ := h
  obtain ⟨hlen, hports⟩ := others
  refine ⟨held, fun q hq => ?_, fun q hq => ?_⟩
  · by_cases hqp : q = p
    · omega
    · exact hlen ▸ hrange q ((elsewhere q hqp).1 hq)
  · by_cases hqp : q = p
    · exact hqp ▸ own
    · rw [portState?_congr (hports q hqp), elsewhere q hqp, hactive q (hlen ▸ hq)]

/-- The commands stay legal after a change of port p alone, if p's is. -/
theorem cmdsOk_of_one_port (h : s.CmdsOk) (others : s.KeepsOtherPorts s' p) (params : s'.params = s.params)
    (own : ∀ x, s'.ports[p]? = some x → x.state ≠ .idle → commandIsExec s.params x.cmd = true) : s'.CmdsOk := by
  obtain ⟨-, hports⟩ := others
  intro x hx hbusy
  obtain ⟨q, hq⟩ := List.mem_iff_getElem?.1 hx
  rw [params]
  by_cases hqp : q = p
  · exact own x (hqp ▸ hq) hbusy
  · exact h x (List.mem_of_getElem? (hports q hqp ▸ hq)) hbusy

end onePort

/-- The invariant after a move of the transport that keeps the ports and the lock. -/
theorem inv_of_ports_eq {s s' : State} (h : s.Inv) (ports : s'.ports = s.ports) (lock : s'.lockOwner = s.lockOwner)
    (params : s'.params = s.params) (stats : s'.StatsOk) (rxbuf : s'.rxbuf.length ≤ s'.params.rxMax)
    (attempt : s'.attempt ≤ maxAttempts)
    (held : s'.tState = .tInit ∨ s'.tState = .tIdle ↔ s.tState = .tInit ∨ s.tState = .tIdle)
    (attemptOk : s'.AttemptOk) (linkOk : s'.LinkOk) : s'.Inv := by
  obtain ⟨⟨hports, -⟩, ⟨hheld, hrange, hactive⟩, -, -, hcmds⟩ := h
  obtain ⟨hlen, hbound⟩ := stats
  refine ⟨⟨by rw [ports, params, hports], hlen, hbound, rxbuf, attempt⟩, ⟨?_, ?_, ?_⟩, attemptOk, linkOk, ?_⟩
  · rw [lock, held, hheld]
  · rwa [lock, ports]
  · simpa only [State.portState?, lock, ports] using hactive
  · rwa [State.CmdsOk, ports, params]

/-- The invariant after the release of the lock owner (R165). -/
theorem inv_of_release {s s' : State} {p : Nat} (h : s.Inv) (hlock : s.lockOwner = some p) (stats : s'.StatsOk)
    (ports : s'.ports = s.ports.modify p (fun x => { x with state := .idle })) (lock : s'.lockOwner = none)
    (stands : s'.tState = .tIdle) (attempt : s'.attempt = 0) (rxbuf : s'.rxbuf = s.rxbuf)
    (params : s'.params = s.params) : s'.Inv := by
  obtain ⟨⟨hports, -, -, hrx, -⟩, hlockOk, -, -, hcmds⟩ := h
  obtain ⟨hlen, hbound⟩ := stats
  have hp : p < s.ports.length := hlockOk.2.1 p hlock
  have others : s.KeepsOtherPorts s' p := keepsOtherPorts_modify ports
  have hidle : s'.portState? p = some .idle := by simp [State.portState?, ports, hp]
  refine ⟨⟨?_, hlen, hbound, by rwa [rxbuf, params], by omega⟩, ?_, by simp [State.AttemptOk, stands, attempt],
    by simp [State.LinkOk, stands], ?_⟩
  · rw [← others.1, params, hports]
  · refine lockOk_of_one_port hlockOk others hp (by simp [lock, stands]) (by simp [hidle, lock]) fun q hq => ?_
    simp [lock, hlock, hq.symm]
  · refine cmdsOk_of_one_port hcmds others params fun x hx hbusy => absurd ?_ hbusy
    obtain ⟨y, hy, hstate⟩ := portState?_eq_some.1 hidle
    obtain rfl : x = y := Option.some.inj (hx.symm.trans hy)
    exact hstate

/-- The invariant after a grant to a waiting port (R154). -/
theorem inv_grantTo {s : State} {q : Nat} (h : s.Inv) (free : s.lockOwner = none)
    (waiting : s.portState? q = some .waiting) : (s.grantTo q).Inv := by
  obtain ⟨⟨hports, hlen, hbound, hrx, -⟩, hlockOk, -, -, hcmds⟩ := h
  obtain ⟨x, hx, hstate⟩ := portState?_eq_some.1 waiting
  have others : s.KeepsOtherPorts (s.grantTo q) q := keepsOtherPorts_modify (s.grantTo_ports q)
  have hactive : (s.grantTo q).portState? q = some .active :=
    portState?_of_modify_state_eq (s.grantTo_ports q) waiting
  refine ⟨?_, ?_, by simp [State.AttemptOk, maxAttempts], by simp [State.LinkOk], ?_⟩
  · simpa [State.SizesOk] using ⟨hports, hlen, hbound, hrx⟩
  · refine lockOk_of_one_port hlockOk others (portState?_lt waiting) (by simp) (by simp [hactive]) fun r hr => ?_
    simp [free, hr.symm]
  · refine cmdsOk_of_one_port hcmds others (by simp) fun y hy _ => ?_
    obtain rfl : { x with state := .active } = y := by simpa [hx] using hy
    exact hcmds x (List.mem_of_getElem? hx) (by simp [hstate])

/-- The invariant after acceptance at an IDLE port that does not become ACTIVE (R153). -/
theorem inv_of_accept {s s' : State} {p : Nat} {x y : Port} (h : s.Inv) (hx : s.ports[p]? = some x)
    (hidle : x.state = .idle) (ports : s'.ports = s.ports.set p y) (passive : y.state ≠ .active)
    (legal : y.state ≠ .idle → commandIsExec s.params y.cmd = true)
    (rest : s.SameTransport s' ∧ s.stats = s'.stats ∧ s.params = s'.params) : s'.Inv := by
  obtain ⟨⟨hports, hlen, hbound, hrx, hatt⟩, hlockOk, hattempt, hlink, hcmds⟩ := h
  obtain ⟨⟨lock, stands, attempt, rxbuf, link, -⟩, stats, params⟩ := rest
  have hp : p < s.ports.length := (List.getElem?_eq_some_iff.1 hx).1
  have others : s.KeepsOtherPorts s' p := keepsOtherPorts_set ports
  have hy : s'.ports[p]? = some y := by simp [ports, hp]
  have hfree : s.lockOwner ≠ some p := by
    intro howner
    have := (hlockOk.2.2 p hp).2 howner
    simp [State.portState?, hx, hidle] at this
  refine ⟨?_, ?_, ?_, ?_, ?_⟩
  · rw [State.SizesOk, ← others.1, ← stats, ← params, ← rxbuf, ← attempt]
    exact ⟨hports, hlen, hbound, hrx, hatt⟩
  · refine lockOk_of_one_port hlockOk others hp ?_ ?_ fun q _ => by rw [lock]
    · rw [← lock, ← stands]; exact hlockOk.1
    · simp [State.portState?, hy, passive, ← lock, hfree]
  · rwa [State.AttemptOk, ← stands, ← attempt]
  · rwa [State.LinkOk, ← stands, ← link]
  · refine cmdsOk_of_one_port hcmds others params.symm fun z hz hbusy => ?_
    obtain rfl : y = z := Option.some.inj (hy.symm.trans hz)
    exact legal hbusy

/-- Every port is IDLE right after reset (R231). -/
theorem portState?_resetWith {ps : Params} {p : Nat} (hp : p < ps.nPorts) :
    (State.resetWith ps).portState? p = some .idle := by
  simp [State.portState?, State.resetWith, Port.reset, hp]

/-- The invariant right after reset (R231). -/
theorem inv_resetWith (ps : Params) : (State.resetWith ps).Inv := by
  refine ⟨?_, ⟨?_, nofun, fun q hq => ?_⟩, ?_, ?_, ?_⟩
  · simp [State.SizesOk, State.resetWith]
  · exact iff_of_true rfl (.inl rfl)
  · have hidle := portState?_resetWith (ps := ps) (p := q) (by simpa [State.resetWith] using hq)
    exact iff_of_false (by simp [hidle]) nofun
  · simp [State.AttemptOk, State.resetWith]
  · simp [State.LinkOk, State.resetWith]
  · simp [State.CmdsOk, State.resetWith, Port.reset]

end Sys2Proof.Machine
end

section
/-! SUPPORT. Every turn keeps the invariant, and every turn of a transaction lowers what is left of it (R175). -/

namespace Sys2Proof.Machine

/-- The lock owner of the invariant stands between a grant and a release. -/
theorem lockOwner_ne_none_iff {s : State} (h : s.Inv) :
    s.lockOwner ≠ none ↔ ¬(s.tState = .tInit ∨ s.tState = .tIdle) := by
  obtain ⟨-, ⟨hheld, -⟩, -⟩ := h
  rw [Ne, hheld]

theorem State.Turn.inv {s s' : State} {e : Event} (h : s.Turn e s') (hinv : s.Inv) : s'.Inv := by
  have hkeep := hinv
  obtain ⟨⟨-, hlen, hbound, hrx, hatt⟩, -, ⟨hfree, hleft, hback⟩, ⟨hclosed, hopened⟩, hcmds⟩ := hkeep
  have hstats : s.StatsOk := ⟨hlen, hbound⟩
  cases h with
  | @answered p c x port idle acc code data =>
    exact inv_of_accept hinv port idle rfl (by simp [idle]) (by simp [idle]) (by simp [State.SameTransport])
  | @accepted p c x a f frame port idle legal =>
    exact inv_of_accept hinv port idle rfl (by simp) (by simp [commandIsExec_encode, legal])
      (by simp [State.SameTransport])
  | opened stands w =>
    refine inv_of_ports_eq hinv rfl rfl rfl hstats hrx hatt (by simp [stands]) ?_ (by simp [State.LinkOk])
    simp [State.AttemptOk, hfree (.inl stands)]
  | granted stands free waiting => exact inv_grantTo hinv free waiting
  | foundClosed stands link =>
    refine inv_of_ports_eq hinv rfl rfl rfl hstats hrx hatt (by simp [stands]) ?_ (by simp [State.LinkOk])
    simp [State.AttemptOk, hleft (.inl stands)]
  | @sent t txn stands link w =>
    have hatt' := hleft (.inl stands)
    rw [send_eq]
    refine inv_of_ports_eq hinv rfl rfl rfl hstats hrx hatt ?_ ?_ ?_
    · cases w <;> simp [stands]
    · cases w <;> simp [State.AttemptOk, hatt']
    · cases w <;> simp [State.LinkOk, link]
  | @received t txn stands w =>
    have hatt' := hleft (.inr (.inl stands))
    have hlink := hopened (.inl stands)
    cases w with
    | ioError =>
      exact inv_of_ports_eq hinv rfl rfl rfl hstats hrx hatt (by simp [State.receive, stands])
        (by simp [State.AttemptOk, State.receive, hatt']) (by simp [State.LinkOk, State.receive])
    | bytes offered =>
      exact inv_of_ports_eq hinv rfl rfl rfl hstats (by simp [State.receive]) hatt (by simp [State.receive, stands])
        (by simp [State.AttemptOk, State.receive, hatt']) (by simp [State.LinkOk, State.receive, hlink])
  | @completed t txn stands payload =>
    obtain ⟨hlock, -⟩ := txn_eq_some txn
    exact inv_of_release hinv hlock (statsOk_completeOk hstats t payload) (s.completeOk_ports t payload)
      (by simp) (by simp) (by simp) (by simp) (by simp)
  | @rejected t txn stands err =>
    have hatt' := hleft (.inr (.inr (.inl stands)))
    have hlink := hopened (.inr (.inl stands))
    exact inv_of_ports_eq hinv (by simp) (by simp) (by simp) (statsOk_softError hstats t err)
      (by simpa using hrx) (by simpa using hatt') (by simp [stands]) (by simp [State.AttemptOk])
      (by simp [State.LinkOk, hlink])
  | retried txn stands left =>
    exact inv_of_ports_eq hinv rfl rfl rfl hstats hrx hatt (by simp [stands]) (by simp [State.AttemptOk, left])
      (by simp [State.LinkOk])
  | @gaveUp t txn stands none_left =>
    obtain ⟨hlock, -⟩ := txn_eq_some txn
    exact inv_of_release hinv hlock (statsOk_hardFail hstats t)
      (s.hardFail_ports t) (by simp) (by simp) (by simp) (by simp) (by simp)
  | @reconnected t txn stands w left =>
    exact inv_of_ports_eq hinv rfl rfl rfl hstats hrx (Nat.le_of_lt left) (by simp [stands])
      (by simp [State.AttemptOk, State.reopened, left]) (by simp [State.LinkOk])
  | @lost t txn stands w none_left =>
    obtain ⟨hlock, -⟩ := txn_eq_some txn
    have hopen : (s.reopened t w).StatsOk := hstats
    exact inv_of_release hinv hlock (statsOk_hardFail hopen t)
      ((s.reopened t w).hardFail_ports t) (by simp) (by simp) (by simp) (by simp [State.reopened])
      (by simp [State.reopened])
  | reset => exact inv_resetWith s.params

/-- What is left of a transaction while a port owns the lock. -/
theorem rank_of_lockOwner {s : State} {p : Nat} (h : s.lockOwner = some p) :
    s.rank = (maxAttempts - s.attempt) * 5 + s.tState.stage + 1 := by simp [State.rank, h]

theorem rank_lt_of_released {s s' : State} {p : Nat} (h : s.lockOwner = some p) (h' : s'.lockOwner = none) :
    s'.rank < s.rank := by
  rw [rank_of_lockOwner h]
  simp [State.rank, h']

/-- A move to a later stage of the same attempt. -/
theorem rank_lt_of_stage {s s' : State} {p : Nat} (h : s.lockOwner = some p) (lock : s'.lockOwner = s.lockOwner)
    (attempt : s'.attempt = s.attempt) (stage : s'.tState.stage < s.tState.stage) : s'.rank < s.rank := by
  rw [rank_of_lockOwner h, rank_of_lockOwner (lock.trans h), attempt]
  omega

/-- A move that uses up an attempt that was left. -/
theorem rank_lt_of_attempt {s s' : State} {p : Nat} (h : s.lockOwner = some p) (lock : s'.lockOwner = s.lockOwner)
    (attempt : s'.attempt = s.attempt + 1) (left : s.attempt < maxAttempts)
    (stage : s'.tState.stage < s.tState.stage + 5) : s'.rank < s.rank := by
  rw [rank_of_lockOwner h, rank_of_lockOwner (lock.trans h), attempt]
  omega

theorem rank_le {s : State} : s.rank ≤ 30 := by
  have hstage : s.tState.stage ≤ 4 := by cases s.tState <;> decide
  unfold State.rank maxAttempts
  split <;> omega

/-- While a port owns the lock, a turn is a delivery, which leaves the transport, or lowers the rank. -/
theorem State.Turn.rank {s s' : State} {e : Event} {p : Nat} (h : s.Turn e s') (hinv : s.Inv)
    (hlock : s.lockOwner = some p) :
    ((∃ q c, e = .deliver q c) ∧ s.SameTransport s') ∨ s'.rank < s.rank := by
  have hbusy := (lockOwner_ne_none_iff hinv).1 (by simp [hlock])
  obtain ⟨-, -, ⟨-, hleft, -⟩, -⟩ := hinv
  cases h with
  | answered => exact .inl ⟨⟨_, _, rfl⟩, by simp [State.SameTransport]⟩
  | accepted => exact .inl ⟨⟨_, _, rfl⟩, by simp [State.SameTransport]⟩
  | opened stands w => exact absurd (.inl stands) hbusy
  | granted stands => exact absurd (.inr stands) hbusy
  | foundClosed stands => exact .inr (rank_lt_of_stage hlock rfl rfl (by simp [stands, TState.stage]))
  | @sent t txn stands link w =>
    rw [send_eq]
    exact .inr (rank_lt_of_stage hlock rfl rfl (by cases w <;> simp [stands, TState.stage]))
  | @received t txn stands w =>
    cases w <;> exact .inr (rank_lt_of_stage hlock rfl rfl (by simp [State.receive, stands, TState.stage]))
  | completed => exact .inr (rank_lt_of_released hlock (by simp))
  | rejected txn stands err =>
    exact .inr (rank_lt_of_attempt hlock (by simp) (by simp) (hleft (.inr (.inr (.inl stands))))
      (by simp [stands, TState.stage]))
  | retried txn stands => exact .inr (rank_lt_of_stage hlock rfl rfl (by simp [stands, TState.stage]))
  | gaveUp => exact .inr (rank_lt_of_released hlock (by simp))
  | reconnected txn stands w left =>
    exact .inr (rank_lt_of_attempt hlock rfl rfl (Nat.lt_of_succ_lt left) (by simp [stands, TState.stage]))
  | lost => exact .inr (rank_lt_of_released hlock (by simp))
  | reset => exact .inr (rank_lt_of_released hlock rfl)

end Sys2Proof.Machine
end

section
/-! PROOFS. The invariant and the progress of a transaction (R21, R22, R24, R167, R175, R231). -/

namespace Sys2Proof.Machine

/-- Settles O40: `inv_resetWith` for all parameters, the default ones among them. -/
theorem invariantHoldsAtReset : Obligations.InvariantHoldsAtReset := ⟨inv_resetWith, inv_resetWith defaultParams⟩

/-- Settles O41: every turn keeps the invariant, which reads neither what is offered nor what is drawn. -/
theorem everyStepKeepsTheInvariant : Obligations.EveryStepKeepsTheInvariant := by
  intro s s' hinv hstep
  rcases step_turn hstep with ⟨e, es, n, -, hturn⟩ | rfl
  · exact hturn.inv hinv
  · exact hinv

/-- Settles O45: `rank` is a ranking function of the turns. -/
theorem transactionsMakeBoundedProgress : Obligations.TransactionsMakeBoundedProgress := by
  intro s s' p hinv hlock hstep
  refine ⟨rank_le, ?_⟩
  rcases step_turn hstep with ⟨e, es, n, -, hturn⟩ | rfl
  · exact (hturn.rank hinv hlock).imp_left And.right
  · exact .inl (by simp [State.SameTransport])

end Sys2Proof.Machine
end

section
/-! SUPPORT. What a turn leaves of the parameters and of the offered events, and what it adds to the responses and to
what the bus has seen (R21, R60, R70, R166). -/

namespace Sys2Proof.Machine

/-- The transaction of a turn is the lock owner's, with the frame of its own command. -/
theorem cmd?_of_txn {s : State} {t : Txn} (h : s.txn? = some t) :
    s.lockOwner = some t.p ∧ (∃ st, s.portState? t.p = some st) ∧ ∃ c, s.cmd? t.p = some c ∧ c.data = t.frame := by
  obtain ⟨hlock, x, hx, -, -, hframe⟩ := txn_eq_some h
  exact ⟨hlock, ⟨x.state, portState?_eq_some.2 ⟨x, hx, rfl⟩⟩, x.cmd, cmd?_eq_some.2 ⟨x, hx, rfl⟩, hframe.symm⟩

theorem State.Turn.params {s s' : State} {e : Event} (h : s.Turn e s') : s'.params = s.params := by
  cases h with
  | sent _ _ _ w => cases w <;> rfl
  | received _ _ w => cases w <;> rfl
  | _ => simp [State.reopened]

/-- A turn takes nothing from the list of offered events; the step that makes it does. -/
theorem State.Turn.inputs {s s' : State} {e : Event} (h : s.Turn e s') : s'.inputs = s.inputs := by
  cases h with
  | sent _ _ _ w => cases w <;> rfl
  | received _ _ w => cases w <;> rfl
  | _ => simp [State.reopened]

/-- A response that a turn may deliver: to a port that was IDLE (R153), or OK, or a hard failure without data (R71). -/
abbrev State.MayAnswer (s : State) (r : Response) : Prop :=
  s.portState? r.port = some .idle ∨ r.code = .ok ∨ (r.code = .hardFailure ∧ r.data = [])

/-- A turn delivers at most one response, to a port that is IDLE after it. -/
theorem State.Turn.responses {s s' : State} {e : Event} (h : s.Turn e s') :
    s'.responses = s.responses ∨
      ∃ r, s'.responses = r :: s.responses ∧ s'.portState? r.port = some .idle ∧ s.MayAnswer r := by
  have released {u : State} {t : Txn} (ht : s.txn? = some t)
      (hports : u.ports = s.ports.modify t.p (fun x => { x with state := .idle })) : u.portState? t.p = some .idle := by
    obtain ⟨-, ⟨st, hst⟩, -⟩ := cmd?_of_txn ht
    exact portState?_of_modify_state_eq hports hst
  cases h with
  | @answered p c x port idle acc code data =>
    have hp := (List.getElem?_eq_some_iff.1 port).1
    refine .inr ⟨_, rfl, ?_, .inl (portState?_eq_some.2 ⟨x, port, idle⟩)⟩
    exact portState?_eq_some.2 ⟨x.setAcc acc, by simp [hp], idle⟩
  | @completed t txn stands payload =>
    exact .inr ⟨_, s.completeOk_responses t payload, released txn (s.completeOk_ports t payload), .inr (.inl rfl)⟩
  | @gaveUp t txn => exact .inr ⟨_, s.hardFail_responses t, released txn (s.hardFail_ports t), .inr (.inr ⟨rfl, rfl⟩)⟩
  | @lost t txn stands w =>
    exact .inr ⟨_, (s.reopened t w).hardFail_responses t, released txn ((s.reopened t w).hardFail_ports t),
      .inr (.inr ⟨rfl, rfl⟩)⟩
  | sent _ _ _ w => cases w <;> exact .inl rfl
  | received _ _ w => cases w <;> exact .inl rfl
  | _ => exact .inl (by simp [State.reopened])

/-- A link access that a turn may make (R166, R167): the lock owner's, what it writes being its own frame, or the open
of T_INIT. -/
abbrev State.MayAccess (s : State) (x : LinkAccess) : Prop :=
  ((x.owner = s.lockOwner ∧ s.lockOwner ≠ none) ∨ (s.tState = .tInit ∧ x.owner = none)) ∧
    ∀ p frame answer, .write p frame answer = x → ∃ c, s.cmd? p = some c ∧ c.data = frame

theorem mayAccess_of_txn {s : State} {t : Txn} {x : LinkAccess} (ht : s.txn? = some t) (howner : x.owner = some t.p)
    (hframe : ∀ p frame answer, .write p frame answer = x → frame = t.frame) : s.MayAccess x := by
  obtain ⟨hlock, -, hcmd⟩ := cmd?_of_txn ht
  refine ⟨.inl (by simp [howner, hlock]), fun p frame answer hx => ?_⟩
  obtain rfl : p = t.p := by simpa [← hx, LinkAccess.owner] using howner
  exact hframe _ frame answer hx ▸ hcmd

theorem State.Turn.linkLog {s s' : State} {e : Event} (h : s.Turn e s') :
    ∃ new, s'.linkLog = new ++ s.linkLog ∧ ∀ x ∈ new, s.MayAccess x := by
  have none_made {u : State} (hu : u.linkLog = s.linkLog) :
      ∃ new, u.linkLog = new ++ s.linkLog ∧ ∀ x ∈ new, s.MayAccess x := ⟨[], hu, by simp⟩
  have reconnect {u : State} {t : Txn} {w : OpenAnswer} (ht : s.txn? = some t)
      (hu : u.linkLog = (s.reopened t w).linkLog) : ∃ new, u.linkLog = new ++ s.linkLog ∧ ∀ x ∈ new, s.MayAccess x := by
    refine ⟨[.opening (some t.p) w, .close t.p], hu, ?_⟩
    exact List.forall_mem_cons.2
      ⟨mayAccess_of_txn ht rfl nofun, List.forall_mem_singleton.2 (mayAccess_of_txn ht rfl nofun)⟩
  cases h with
  | opened stands w => exact ⟨[.opening none w], rfl, by simp [State.MayAccess, stands, LinkAccess.owner]⟩
  | @sent t txn stands link w =>
    refine ⟨[.write t.p t.frame w], by rw [send_eq]; rfl, List.forall_mem_singleton.2 ?_⟩
    exact mayAccess_of_txn txn rfl fun p frame answer hx => (LinkAccess.write.inj hx).2.1
  | @received t txn stands w =>
    cases w with
    | ioError => exact ⟨[.readError t.p], rfl, List.forall_mem_singleton.2 (mayAccess_of_txn txn rfl nofun)⟩
    | bytes offered =>
      exact ⟨[.received t.p (offered.take s.params.rxMax)], rfl,
        List.forall_mem_singleton.2 (mayAccess_of_txn txn rfl nofun)⟩
  | @reconnected t txn stands w => exact reconnect txn rfl
  | @lost t txn stands w => exact reconnect txn ((s.reopened t w).hardFail_linkLog t)
  | _ => exact none_made (by simp)

end Sys2Proof.Machine
end

section
/-! SUPPORT. Every move that can happen has a next state (R209), and what the transport does by itself when nothing
offered can happen (log 2). -/

namespace Sys2Proof.Machine

theorem exec_total {i : Instr} {s : State} {x : Port} (hx : s.ports[s.issuer]? = some x) : ∃ t, exec i s = .next t := by
  by_cases hwf : i.WellFormed s.params.dataMax
  · obtain ⟨y, ⟨code, data, -, hexec⟩ | hexec⟩ := exec_of_wellFormed hx hwf <;> exact ⟨_, hexec⟩
  · exact ⟨_, exec_of_not_wellFormed hx hwf⟩

theorem perform_total {s : State} {e : Event} (he : s.enabled e = true) : ∃ t, perform e s = .next t := by
  cases e with
  | deliver p c =>
    obtain ⟨x, hx, -⟩ := portState?_eq_some.1 (enabled_deliver.1 he)
    cases hd : decode c with
    | error err => exact ⟨_, accept_error s hd⟩
    | ok i =>
      obtain ⟨t, ht⟩ := exec_total (i := i) (s := { s with issuer := p }) hx
      exact ⟨t, (accept_ok s hd).trans ht⟩
  | linkOpen w =>
    by_cases hinit : s.tState = .tInit
    · exact ⟨_, if_pos hinit⟩
    · exact ⟨_, if_neg hinit⟩
  | _ => exact ⟨_, rfl⟩

/-- The own move is the step when nothing offered can happen (log 2). -/
theorem step_ownMove {s : State} {e : Event} (hnone : ∀ x ∈ s.inputs, s.enabled x = false)
    (hown : s.ownMove = some e) (he : s.enabled e = true) : step s = perform e { s with draws := s.draws + 1 } := by
  simp [step, scheduleStep, firstEnabled_none.2 hnone, hown, he]

/-- Within the invariant the transport that stands in a read window, at a check or in a backoff has an own move that
can happen, and it is no delivery (R175). -/
theorem ownMove_of_waits {s : State} (h : s.Inv)
    (hwaits : s.tState = .tRecv ∨ s.tState = .tCheck ∨ s.tState = .tBackoff) :
    ∃ e p, s.ownMove = some e ∧ s.enabled e = true ∧ s.lockOwner = some p ∧ ∀ q c, e ≠ .deliver q c := by
  have hbusy : s.lockOwner ≠ none := (lockOwner_ne_none_iff h).2 (by rcases hwaits with h | h | h <;> simp [h])
  obtain ⟨p, hp⟩ := Option.ne_none_iff_exists'.1 hbusy
  obtain ⟨-, ⟨-, hrange, -⟩, -⟩ := h
  obtain ⟨t, ht, -⟩ := txn_isSome hp (hrange p hp)
  rcases hwaits with hw | hw | hw
  · exact ⟨.linkRead (Config.readAnswer s.draws), p, by simp [State.ownMove, hw], enabled_linkRead.2 ⟨hw, t, ht⟩, hp,
      nofun⟩
  · exact ⟨_, p, by simp [State.ownMove, hw], enabled_check.2 ⟨hw, t, ht⟩, hp, nofun⟩
  · exact ⟨_, p, by simp [State.ownMove, hw], enabled_backoffEnd.2 ⟨hw, t, ht⟩, hp, nofun⟩

end Sys2Proof.Machine
end

section
/-! PROOFS. The statements about every step (R21, R60, R61, R70, R71, R166, R167, R175, R209) and the own moves
(log 2). -/

namespace Sys2Proof.Machine

/-- Settles O10: the step takes one event off the list, and a delivery to a busy port cannot be that one. -/
theorem deliveryToABusyPortIsHeld : Obligations.DeliveryToABusyPortIsHeld := by
  intro s s' p c hbusy hoffered hstep
  rcases step_turn hstep with ⟨e, es, n, hkept, hturn⟩ | rfl
  · rw [hturn.inputs]
    refine (hkept _ hoffered).resolve_right ?_
    rintro rfl
    cases hturn with
    | answered port idle => exact hbusy (portState?_eq_some.2 ⟨_, port, idle⟩)
    | accepted port idle => exact hbusy (portState?_eq_some.2 ⟨_, port, idle⟩)
  · exact hoffered

/-- Settles O42: the event a step takes can happen, so its move has a next state. -/
theorem everyStepAnswersANextState : Obligations.EveryStepAnswersANextState := by
  intro s
  rcases step_of_taken s with ⟨e, es, n, -, he, hstep, -⟩ | ⟨-, hstep⟩
  · rw [hstep]
    exact perform_total ((enabled_offered s es n e).trans he)
  · exact ⟨_, hstep⟩

/-- Settles O43: `State.Turn.linkLog` of the turn the step makes. -/
theorem onlyTheLockOwnerTouchesTheLink : Obligations.OnlyTheLockOwnerTouchesTheLink := by
  intro s s' hstep
  rcases step_turn hstep with ⟨e, es, n, -, hturn⟩ | rfl
  · obtain ⟨new, hlog, hmay⟩ := hturn.linkLog
    exact ⟨new, hlog, fun x hx => (hmay x hx).1, fun p frame answer hx => (hmay _ hx).2 p frame answer rfl⟩
  · exact ⟨[], rfl, by simp, by simp⟩

/-- Settles O46: the own move of such a state is a turn that lowers the rank, being no delivery. -/
theorem windowsChecksAndBackoffsEnd : Obligations.WindowsChecksAndBackoffsEnd := by
  intro s hinv hwaits hnone
  obtain ⟨e, p, hown, he, hlock, hmove⟩ := ownMove_of_waits hinv hwaits
  have he' := (enabled_draws s (s.draws + 1) e).trans he
  obtain ⟨s', hs'⟩ := perform_total he'
  refine ⟨s', (step_ownMove hnone hown he).trans hs', ?_⟩
  rcases (perform_turn he' hs').rank hinv hlock with ⟨⟨q, c, rfl⟩, -⟩ | hrank
  · exact absurd rfl (hmove q c)
  · exact hrank

/-- Settles O47: both steps make the move of e at the same state. -/
theorem ownMoveIsTheOfferedMove : Obligations.OwnMoveIsTheOfferedMove := by
  intro s e hnone hown he
  rw [step_ownMove hnone hown he]
  exact (step_head rfl ((enabled_offered s _ _ e).trans he)).symm

/-- Settles O53: `State.Turn.responses` of the turn the step makes. -/
theorem atMostOneResponseAStep : Obligations.AtMostOneResponseAStep := by
  intro s s' hstep
  rcases step_turn hstep with ⟨e, es, n, -, hturn⟩ | rfl
  · exact hturn.responses.imp_right fun ⟨r, hr, hidle, _⟩ => ⟨r, hr, hidle⟩
  · exact .inl rfl

/-- Settles O55: the response to a port that was not IDLE is a transaction's, by `State.Turn.responses`. -/
theorem transactionsAnswerOkOrHardFailure : Obligations.TransactionsAnswerOkOrHardFailure := by
  intro s s' r hstep hresp hbusy
  rcases step_turn hstep with ⟨e, es, n, -, hturn⟩ | rfl
  · rcases hturn.responses with hsame | ⟨r', hr', -, hmay⟩
    · exact absurd (hresp.symm.trans hsame) (List.cons_ne_self r s.responses)
    · obtain ⟨rfl, -⟩ := List.cons.inj (hresp.symm.trans hr')
      rcases hmay with hidle | hok | ⟨hhard, hdata⟩
      · exact absurd hidle hbusy
      · exact .inl ⟨hok, by rw [hok]; rfl⟩
      · exact .inr ⟨hhard, by rw [hhard]; rfl, hdata⟩
  · exact absurd hresp.symm (List.cons_ne_self r s.responses)

/-- Settles O56: `State.Turn.params` of the turn the step makes. -/
theorem parametersNeverChange : Obligations.ParametersNeverChange := by
  intro s s' hstep
  rcases step_turn hstep with ⟨e, es, n, -, hturn⟩ | rfl
  · exact hturn.params
  · rfl

end Sys2Proof.Machine
end

section
/-! SUPPORT. What the commands that answer at once leave of the block (R26, R153), and what placing a command does
(log 3). -/

namespace Sys2Proof.Machine

/-- From s to t nothing but the issuing port's accumulator and the responses changes, and the accumulator is acc. -/
abbrev State.OnlyAccumulates (s t : State) (acc : Acc) : Prop :=
  t.crc? s.issuer = some (acc.hi, acc.lo) ∧ t.portState? s.issuer = s.portState? s.issuer ∧
    t.cmd? s.issuer = s.cmd? s.issuer ∧ s.KeepsOtherPorts t s.issuer ∧ s.KeepsRest t

theorem State.KeepsOtherPorts.trans {s u v : State} {p : Nat} (h : s.KeepsOtherPorts u p)
    (h' : u.KeepsOtherPorts v p) : s.KeepsOtherPorts v p :=
  ⟨h.1.trans h'.1, fun q hq => (h'.2 q hq).trans (h.2 q hq)⟩

theorem State.KeepsRest.trans {s u v : State} (h : s.KeepsRest u) (h' : u.KeepsRest v) : s.KeepsRest v := by
  simp_all [State.KeepsRest, State.SameTransport]

theorem State.OnlyAccumulates.trans {s t u : State} {acc acc' : Acc} (h : s.OnlyAccumulates t acc)
    (h' : t.OnlyAccumulates u acc') : s.OnlyAccumulates u acc' := by
  obtain ⟨-, hstate, hcmd, hports, hrest⟩ := h
  obtain ⟨-, -, -, hissuer, -⟩ := id hrest
  rw [State.OnlyAccumulates, ← hissuer] at h'
  obtain ⟨hacc', hstate', hcmd', hports', hrest'⟩ := h'
  exact ⟨hacc', hstate'.trans hstate, hcmd'.trans hcmd, hports.trans hports', hrest.trans hrest'⟩

/-- An answer that writes the issuing port's accumulator writes nothing else. -/
theorem onlyAccumulates_setAcc {s : State} {x : Port} (hx : s.ports[s.issuer]? = some x) (acc : Acc)
    (code : RespCode) (data : List Byte) :
    s.OnlyAccumulates ((s.setPort s.issuer (x.setAcc acc)).respond s.issuer code data 0) acc := by
  have hlt := (List.getElem?_eq_some_iff.1 hx).1
  have hnew : (s.ports.set s.issuer (x.setAcc acc))[s.issuer]? = some (x.setAcc acc) := by simp [hlt]
  refine ⟨crc?_eq_some.2 ⟨_, hnew, rfl, rfl⟩, ?_, ?_, keepsOtherPorts_set rfl,
    by simp [State.KeepsRest, State.SameTransport]⟩
  · exact (portState?_eq_some.2 ⟨x.setAcc acc, hnew, rfl⟩).trans (portState?_eq_some.2 ⟨x, hx, rfl⟩).symm
  · exact (cmd?_eq_some.2 ⟨x.setAcc acc, hnew, rfl⟩).trans (cmd?_eq_some.2 ⟨x, hx, rfl⟩).symm

theorem acc_of_crc? {s : State} {p : Nat} {hi lo : Byte} (h : s.crc? p = some (hi, lo)) :
    ∃ x, s.ports[p]? = some x ∧ x.acc = ⟨hi, lo⟩ := by
  obtain ⟨x, hx, rfl, rfl⟩ := crc?_eq_some.1 h
  exact ⟨x, hx, rfl⟩

/-- An answer alone changes nothing of the block. -/
theorem respond_frame (s : State) (p : Nat) (code : RespCode) (data : List Byte) (n : Byte) :
    s.SameBlock (s.respond p code data n) ∧ s.KeepsRest (s.respond p code data n) := by
  simp [State.SameBlock, State.KeepsRest, State.SameTransport]

/-- CRC.UPDATE for a known accumulator (R111). -/
theorem crcUpdate_step {s : State} {acc : Acc} (h : s.crc? s.issuer = some (acc.hi, acc.lo)) (b : Byte) :
    ∃ t, exec (.crcUpdate b) s = .next t ∧ s.OnlyAccumulates t (crcUpdate s.params.crcTable acc b) ∧
      t.responses = ⟨s.issuer, .ok, [], 0⟩ :: s.responses := by
  obtain ⟨x, hx, hacc⟩ := acc_of_crc? h
  exact ⟨_, exec_crcUpdate hx b, hacc ▸ onlyAccumulates_setAcc hx _ _ _, rfl⟩

/-- CRC.INIT (R110). -/
theorem crcInit_step {s : State} (h : s.issuer < s.ports.length) :
    ∃ t, exec .crcInit s = .next t ∧ s.OnlyAccumulates t Acc.seed ∧
      t.responses = ⟨s.issuer, .ok, [], 0⟩ :: s.responses := by
  have hx := List.getElem?_eq_getElem h
  exact ⟨_, exec_crcInit hx, onlyAccumulates_setAcc hx _ _ _, rfl⟩

/-- CRC.FINISH for a known accumulator (R112). -/
theorem crcFinish_step {s : State} {acc : Acc} (h : s.crc? s.issuer = some (acc.hi, acc.lo)) :
    exec .crcFinish s = .next (s.respond s.issuer .ok (crcFinish acc) 0) := by
  obtain ⟨x, hx, hacc⟩ := acc_of_crc? h
  rw [exec_crcFinish hx, hacc, State.answer]

theorem execAll_cons {i : Instr} {is : List Instr} {s t : State} (h : exec i s = .next t) :
    execAll (i :: is) s = execAll is t := by
  rw [execAll, h]

/-- One CRC.UPDATE a byte absorbs the bytes, before whatever commands follow (R103, R111). -/
theorem execAll_crcUpdates (is : List Instr) (bytes : List Byte) {s : State} {acc : Acc}
    (h : s.crc? s.issuer = some (acc.hi, acc.lo)) :
    ∃ t, execAll (bytes.map .crcUpdate ++ is) s = execAll is t ∧
      s.OnlyAccumulates t (bytes.foldl (crcUpdate s.params.crcTable) acc) ∧
      t.responses.length = s.responses.length + bytes.length := by
  induction bytes generalizing s acc with
  | nil =>
    exact ⟨s, rfl, ⟨h, rfl, rfl, ⟨rfl, fun _ _ => rfl⟩, by simp [State.KeepsRest, State.SameTransport]⟩, rfl⟩
  | cons b bytes ih =>
    obtain ⟨t, hexec, hacc, hresp⟩ := crcUpdate_step h b
    obtain ⟨hcrc, -, -, -, -, -, hparams, hissuer, -⟩ := id hacc
    obtain ⟨u, hrun, hacc', hresp'⟩ := ih (hissuer ▸ hcrc)
    rw [← hparams] at hacc'
    refine ⟨u, (execAll_cons hexec).trans hrun, hacc.trans hacc', ?_⟩
    rw [hresp', hresp, List.length_cons, List.length_cons]
    omega

theorem freePort_lt {s : State} (h : s.ports ≠ []) : s.freePort < s.ports.length := by
  unfold State.freePort
  cases hfind : (List.range s.ports.length).find? fun p => decide (s.portState? p = some .idle) with
  | none => exact List.length_pos_of_ne_nil h
  | some p => exact List.mem_range.1 (List.mem_of_find?_eq_some hfind)

/-- A placed command is the first thing offered, to a port that is IDLE and exists (log 3). -/
theorem portState?_deliverNext {s : State} (c : Command) (h : s.ports ≠ []) :
    (s.deliverNext c).portState? s.freePort = some .idle := by
  have hlt := freePort_lt h
  simp [State.portState?, State.deliverNext, hlt]

theorem decode_of_decodeTableWord {nbits w : Nat} {i : Instr} (h : decodeTableWord nbits w = some i) :
    decode (commandOfBits nbits w) = .ok i := by
  unfold decodeTableWord at h
  split at h
  next j hd => exact Option.some.inj h ▸ hd
  next => cases h

end Sys2Proof.Machine
end

section
/-! SUPPORT. A command does not depend on another port's accumulator (R26): the state it leaves, with another port
overwritten, is what it leaves of the state with that port overwritten. -/

namespace Sys2Proof.Machine

section otherPort

variable {s t : State} {q : Nat} {z : Port}

theorem setPort_setPort_comm (s : State) {p q : Nat} (h : q ≠ p) (y z : Port) :
    (s.setPort q z).setPort p y = (s.setPort p y).setPort q z := by
  simp [State.setPort, List.set_comm _ _ h]

theorem answer_setPort_other {code : RespCode} {data : List Byte} (h : s.answer code data = .next t) :
    (s.setPort q z).answer code data = .next (t.setPort q z) := by
  cases h
  rfl

theorem answer_setPort_setPort_other {y : Port} {code : RespCode} {data : List Byte} (hq : q ≠ s.issuer)
    (h : (s.setPort s.issuer y).answer code data = .next t) :
    ((s.setPort q z).setPort s.issuer y).answer code data = .next (t.setPort q z) := by
  rw [setPort_setPort_comm s hq]
  exact answer_setPort_other h

theorem ite_setPort_other {P : Prop} [Decidable P] {u v u' v' : Host.Outcome State Fault Refusal}
    (h : (if P then u else v) = .next t) (hu : u = .next t → u' = .next (t.setPort q z))
    (hv : v = .next t → v' = .next (t.setPort q z)) : (if P then u' else v') = .next (t.setPort q z) := by
  split at h
  next hP => rw [if_pos hP, hu h]
  next hP => rw [if_neg hP, hv h]

theorem exec_setPort_other (i : Instr) (hq : q ≠ s.issuer) (h : exec i s = .next t) :
    exec i (s.setPort q z) = .next (t.setPort q z) := by
  obtain ⟨x, hx, -⟩ := exec_next h
  have hx' : (s.setPort q z).ports[(s.setPort q z).issuer]? = some x := (List.getElem?_set_ne hq).trans hx
  cases i with
  | crcInit =>
    rw [exec_crcInit hx] at h
    exact (exec_crcInit hx').trans (answer_setPort_setPort_other hq h)
  | crcUpdate b =>
    rw [exec_crcUpdate hx] at h
    exact (exec_crcUpdate hx' b).trans (answer_setPort_setPort_other hq h)
  | crcFinish =>
    rw [exec_crcFinish hx] at h
    exact (exec_crcFinish hx').trans (answer_setPort_other h)
  | frmRead a =>
    rw [exec_frmRead hx] at h
    exact (exec_frmRead hx' a).trans (ite_setPort_other h answer_setPort_other answer_setPort_other)
  | frmWrite a off d =>
    rw [exec_frmWrite hx] at h
    exact (exec_frmWrite hx' a off d).trans (ite_setPort_other h answer_setPort_other answer_setPort_other)
  | frmVerify a f d =>
    rw [exec_frmVerify hx] at h
    exact (exec_frmVerify hx' a f d).trans (ite_setPort_other h answer_setPort_other answer_setPort_other)
  | busExec a f d =>
    rw [exec_busExec hx] at h
    refine (exec_busExec hx' a f d).trans (ite_setPort_other h (fun hnext => ?_) answer_setPort_other)
    cases hnext
    exact congrArg Host.Outcome.next (setPort_setPort_comm s hq _ z)
  | statRead a d c =>
    cases hk : statReadCounter a c with
    | none =>
      rw [exec_statRead_none hx d hk] at h
      exact (exec_statRead_none hx' d hk).trans (answer_setPort_other h)
    | some k =>
      rw [exec_statRead_some hx d hk] at h
      exact (exec_statRead_some hx' d hk).trans (answer_setPort_other h)

end otherPort

end Sys2Proof.Machine
end

section
/-! SUPPORT. The bytes of a number, little-endian, and the counter a select names (R44, R68, R180). -/

namespace Sys2Proof.Machine

@[simp] theorem leBytes_length (n v : Nat) : (leBytes n v).length = n := by
  induction n generalizing v with
  | zero => rfl
  | succ n ih => rw [leBytes, List.length_cons, ih]

/-- The n low bytes read back give what n bytes can hold. -/
theorem foldr_leBytes (n v : Nat) : (leBytes n v).foldr (fun b v => b.toNat + 256 * v) 0 = v % 256 ^ n := by
  induction n generalizing v with
  | zero => simp [leBytes, Nat.mod_one]
  | succ n ih =>
    rw [leBytes, List.foldr_cons, ih, Nat.pow_succ', Nat.mod_mul]
    simp

theorem statReadCounter_eq_some {a : Byte} {c : BitVec 3} {k : Counter} (h1 : 1 ≤ a.toNat) (h2 : a.toNat ≤ 32)
    (hc : c.toNat = ctrIndex k) : statReadCounter a c = some k := by
  rw [statReadCounter, if_pos (addrOk_iff.2 ⟨h1, h2⟩)]
  exact counterOf_eq_some.2 (by cases k <;> exact hc)

end Sys2Proof.Machine
end

section
/-! PROOFS. The statements about acceptance and the meanings of the commands (R26, R48, R110 to R112, R125, R152, R153,
R180). -/

namespace Sys2Proof.Machine

/-- Settles O6: the step accepts the delivery, and acceptance runs what it decodes to. -/
theorem stepRunsTheDecodedCommand : Obligations.StepRunsTheDecodedCommand := by
  intro s p c rest i hi hidle hd
  exact (step_deliver hi hidle).trans (accept_ok _ hd)

/-- Settles O7: the placed command is a delivery to an IDLE port that stands first. -/
theorem placedWordRunsInTheNextStep : Obligations.PlacedWordRunsInTheNextStep := by
  intro s nbits w i hports htable
  have hd := decode_of_decodeTableWord htable
  refine ⟨_, (step_deliver rfl (portState?_deliverNext _ hports)).trans (accept_ok _ hd), ?_⟩
  simpa [State.deliverNext, State.SameTransport] using freePort_lt hports

/-- Settles O11: `crcInit_step`, whose seed is the pair of bytes 0xFF. -/
theorem crcInitSeedsTheAccumulator : Obligations.CrcInitSeedsTheAccumulator := by
  intro s hissuer
  obtain ⟨t, hexec, ⟨hacc, hframe⟩, hresp⟩ := crcInit_step hissuer
  obtain ⟨hstate, hcmd, hports, hrest⟩ := hframe
  exact ⟨t, hexec, hacc, hresp, hstate, hcmd, hports, hrest⟩

/-- Settles O12: the two nibbles of R103 are the byte's quotient and remainder by 16. -/
theorem crcUpdateAbsorbsHighThenLowNibble : Obligations.CrcUpdateAbsorbsHighThenLowNibble := by
  intro s b hi lo hcrc
  have hhigh : b.extractLsb' 4 4 = BitVec.ofNat 4 (b.toNat / 16) := by
    simp [BitVec.extractLsb', Nat.shiftRight_eq_div_pow]
  have hlow : b.extractLsb' 0 4 = BitVec.ofNat 4 b.toNat := by simp [BitVec.extractLsb']
  obtain ⟨t, hexec, ⟨hacc, hstate, hcmd, hports, hrest⟩, hresp⟩ := crcUpdate_step (acc := ⟨hi, lo⟩) hcrc b
  rw [crcUpdate, hhigh, hlow] at hacc
  exact ⟨t, hexec, hacc, hresp, hstate, hcmd, hports, hrest⟩

/-- Settles O13: `crcFinish_step`, an answer alone. -/
theorem crcFinishReturnsLowByteFirst : Obligations.CrcFinishReturnsLowByteFirst := by
  intro s hi lo hcrc
  obtain ⟨hblock, hrest⟩ := respond_frame s s.issuer .ok (crcFinish ⟨hi, lo⟩) 0
  exact ⟨_, crcFinish_step (acc := ⟨hi, lo⟩) hcrc, rfl, hblock, hrest⟩

/-- Settles O14: after the seed and the bytes the accumulator is `crcFold`, which CRC.FINISH answers. -/
theorem crcCommandsComputeTheChecksum : Obligations.CrcCommandsComputeTheChecksum := by
  intro s bytes hissuer
  obtain ⟨t, hinit, hseed, hresp⟩ := crcInit_step hissuer
  obtain ⟨hcrc, -, -, -, -, -, hparams, hsame, -⟩ := id hseed
  obtain ⟨u, hrun, hacc, hresp'⟩ := execAll_crcUpdates [.crcFinish] bytes (acc := Acc.seed) (hsame ▸ hcrc)
  have htotal := hseed.trans hacc
  rw [← hparams] at htotal
  obtain ⟨hcrc', hstate, hcmd, hports, hrest⟩ := htotal
  obtain ⟨-, -, -, hissuer', -⟩ := id hrest
  have hfinish := crcFinish_step (acc := crcFold s.params.crcTable bytes) (hissuer' ▸ hcrc')
  refine ⟨_, _, _, (execAll_cons hinit).trans (hrun.trans (execAll_cons hfinish)), rfl, hcrc', ?_, ?_, hstate, hcmd,
    hports, hrest⟩
  · rw [hissuer']; rfl
  · rw [State.respond_responses, List.length_cons, hresp', hresp, List.length_cons]
    omega

/-- Settles O17: the header is that of R75, by definition. -/
theorem frmReadBuildsTheReadAllRequest : Obligations.FrmReadBuildsTheReadAllRequest := by
  intro s a hissuer h1 h2
  have hx := List.getElem?_eq_getElem hissuer
  obtain ⟨hblock, hrest⟩ := respond_frame s s.issuer .ok (buildReadAll s.params.crcTable a) 0
  exact ⟨_, (exec_frmRead hx a).trans (if_pos (addrOk_iff.2 ⟨h1, h2⟩)), hblock, hrest, rfl⟩

/-- Settles O19: the answer is the code and the data of `verify`'s result. -/
theorem frmVerifyAnswersTheVerifyResult : Obligations.FrmVerifyAnswersTheVerifyResult := by
  intro s a f reply hissuer hlen
  have hx := List.getElem?_eq_getElem hissuer
  obtain ⟨hblock, hrest⟩ := respond_frame s s.issuer (verify s.params.crcTable a f reply).code
    (verify s.params.crcTable a f reply).data 0
  refine ⟨_, (exec_frmVerify hx a f reply).trans (if_pos (decide_eq_true hlen)), hblock, hrest, ?_⟩
  rw [State.respond_responses]
  cases verify s.params.crcTable a f reply with
  | ok payload => rfl
  | err e => cases e <;> rfl

/-- Settles O25: the operands pass the check, so the port takes the command, whose word `toNat_wordAF` gives. -/
theorem busExecWaitsForTheLock : Obligations.BusExecWaitsForTheLock := by
  intro s a f frame hissuer h1 h2 hframe hlen
  have hx := List.getElem?_eq_getElem hissuer
  have hlegal : busExecOk s.params a frame = true := by simp [busExecOk, dataOk, addrOk, h1, h2, hframe, hlen]
  refine ⟨_, encode (.busExec a f frame), (exec_busExec hx a f frame).trans (if_pos hlegal), ?_, ?_,
    toNat_wordAF _ a f, rfl, ?_, rfl, keepsOtherPorts_set rfl, by simp [State.KeepsRest, State.SameTransport]⟩
  · simp [State.portState?, hissuer]
  · simp [State.cmd?, hissuer]
  · simp [State.crc?, hissuer]

/-- Settles O39: the bytes read back give the counter modulo what they can hold, which is everything if CTR_W is a
whole number of bytes. -/
theorem statReadReturnsTheCounterLittleEndian : Obligations.StatReadReturnsTheCounterLittleEndian := by
  intro s a d c k hissuer h1 h2 hc
  have hx := List.getElem?_eq_getElem hissuer
  have hk := statReadCounter_eq_some h1 h2 hc
  obtain ⟨hblock, hrest⟩ := respond_frame s s.issuer .ok (leBytes (statBytes s.params) (s.stat a.toNat d k)) 0
  refine ⟨_, _, exec_statRead_some hx d hk, hblock, hrest, rfl, leBytes_length _ _, foldr_leBytes _ _, ?_⟩
  intro hdvd hlt
  have hwidth : 256 ^ (s.params.ctrW / 8) = 2 ^ s.params.ctrW := by
    rw [show 256 = 2 ^ 8 from rfl, ← Nat.pow_mul, Nat.mul_div_cancel' hdvd]
  rw [foldr_leBytes, statBytes, hwidth, Nat.mod_eq_of_lt hlt]

/-- Settles O51: `exec_setPort_other` for a port that differs in its accumulator. -/
theorem portsCannotReachEachOthersAccumulators : Obligations.PortsCannotReachEachOthersAccumulators := by
  intro s t i q x acc hq _ h
  exact exec_setPort_other i hq h

/-- Settles O52: the two ways `exec` can end (Laws/Ops.lean). -/
theorem commandsLeaveTheTransportAlone : Obligations.CommandsLeaveTheTransportAlone := by
  intro s t i h
  obtain ⟨x, hx, ⟨acc, code, data, rfl⟩ | ⟨a, f, frame, rfl, -, rfl⟩⟩ := exec_next h
  · obtain ⟨-, hstate, hcmd, hports, hrest⟩ := onlyAccumulates_setAcc hx acc code data
    exact ⟨hrest, hports, .inl ⟨code, data, rfl, hstate, hcmd⟩⟩
  · have hlt := (List.getElem?_eq_some_iff.1 hx).1
    exact ⟨by simp [State.KeepsRest, State.SameTransport], keepsOtherPorts_set rfl,
      .inr ⟨rfl, by simp [State.portState?, hlt], a, f, frame, rfl⟩⟩

end Sys2Proof.Machine
end

section
/-! SUPPORT. The steps of `verify` (R130) as conditions on the reply: what an accepted reply passed, and how a reply
that passes them is accepted. -/

namespace Sys2Proof.Machine

/-- The trailer is the checksum of what stands before it (R130 step 2). -/
abbrev TrailerOk (tbl : CrcTable) (reply : List Byte) : Prop :=
  crc16 tbl (reply.take (reply.length - 2)) = reply.drop (reply.length - 2)

theorem verify_short {tbl : CrcTable} {a : Byte} {f : Dir} {reply : List Byte} (h : reply.length < 3) :
    verify tbl a f reply = .err .noDataReceived := if_pos h

theorem verify_corrupt {tbl : CrcTable} {a : Byte} {f : Dir} {reply : List Byte} (h : 3 ≤ reply.length)
    (hcrc : ¬TrailerOk tbl reply) : verify tbl a f reply = .err .checksumMismatch :=
  (if_neg (Nat.not_lt.2 h)).trans (if_pos hcrc)

/-- The checks after the checksum, steps 3 to 8 (R130). -/
abbrev HeaderOk (a : Byte) (f : Dir) (reply : List Byte) : Prop :=
  (reply[0]? = some masterTx ∨ reply[0]? = some masterAlt) ∧ reply[3]? = some a ∧
    reply[4]? = some (functionByte f) ∧ (f = .write → le16 reply 1 = 7) ∧ le16 reply 1 = reply.length

/-- The payload of an accepted reply (R130 step 8). -/
def payloadOf (f : Dir) (reply : List Byte) : List Byte :=
  match f with
  | .read => slice reply 9 (reply.length - 2)
  | .write => []

/-- One check of a list that ends in Q deciding: it fails only where Q does. -/
theorem check_of_imp_not {P Q : Prop} [Decidable P] [Decidable Q] {e : VerifyError} {u v : VerifyResult}
    (fails : P → ¬Q) (rest : ¬P → u = if Q then v else .err e) :
    (if P then .err e else u) = if Q then v else .err e := by
  split
  next hP => rw [if_neg (fails hP)]
  next hP => exact rest hP

/-- Past the checksum a reply is accepted if it passes the remaining checks, else it is a protocol violation. -/
theorem verify_of_trailerOk {tbl : CrcTable} {a : Byte} {f : Dir} {reply : List Byte} (h : 3 ≤ reply.length)
    (hcrc : TrailerOk tbl reply) :
    verify tbl a f reply = if HeaderOk a f reply then .ok (payloadOf f reply) else .err .protocolViolation := by
  have function_known : functionByte f = 0 ∨ functionByte f = 1 := by cases f <;> simp [functionByte]
  refine (if_neg (Nat.not_lt.2 h)).trans ((if_neg (not_not_intro hcrc)).trans ?_)
  refine check_of_imp_not (fun hP ⟨hdest, _⟩ => hdest.elim hP.1 hP.2) fun hdest => ?_
  refine check_of_imp_not (fun hP ⟨_, hsource, _⟩ => hP hsource) fun hsource => ?_
  refine check_of_imp_not (fun hP ⟨_, _, hfunction, _⟩ => ?_) fun _ => ?_
  · rw [hfunction, Ne, Ne, Option.some_inj, Option.some_inj] at hP
    exact function_known.elim hP.1 hP.2
  refine check_of_imp_not (fun hP ⟨_, _, hfunction, _⟩ => hP hfunction) fun hfunction => ?_
  rw [not_not] at hsource hfunction
  have hwrite : reply[4]? = some 1 ↔ f = .write := by rw [hfunction]; cases f <;> simp [functionByte]
  refine check_of_imp_not (fun hP ⟨_, _, _, hseven, _⟩ => hP.2 (hseven (hwrite.1 hP.1))) fun hseven => ?_
  refine check_of_imp_not (fun hP ⟨_, _, _, _, hlen⟩ => hP hlen) fun hlen => ?_
  rw [not_not] at hlen
  have hok : HeaderOk a f reply :=
    ⟨by tauto, hsource, hfunction, fun hf => by_contra fun hne => hseven ⟨hwrite.2 hf, hne⟩, hlen⟩
  rw [if_pos hok, hfunction]
  cases f <;> rfl

/-- What `verify` accepts (R130). -/
theorem verify_eq_ok_iff {tbl : CrcTable} {a : Byte} {f : Dir} {reply payload : List Byte} :
    verify tbl a f reply = .ok payload ↔
      3 ≤ reply.length ∧ TrailerOk tbl reply ∧ HeaderOk a f reply ∧ payloadOf f reply = payload := by
  constructor
  · intro h
    have hlen : 3 ≤ reply.length := by
      by_contra hshort
      rw [verify_short (Nat.lt_of_not_le hshort)] at h
      cases h
    have hcrc : TrailerOk tbl reply := by
      by_contra hcorrupt
      rw [verify_corrupt hlen hcorrupt] at h
      cases h
    rw [verify_of_trailerOk hlen hcrc] at h
    split at h
    next hok => exact ⟨hlen, hcrc, hok, VerifyResult.ok.inj h⟩
    next => cases h
  · rintro ⟨hlen, hcrc, hok, rfl⟩
    rw [verify_of_trailerOk hlen hcrc, if_pos hok]

theorem le16_take {bytes : List Byte} {i m : Nat} (h : i + 1 < m) : le16 (bytes.take m) i = le16 bytes i := by
  simp [le16, List.getD, List.getElem?_take_of_lt h, List.getElem?_take_of_lt (Nat.lt_of_succ_lt h)]

/-- A sealed frame passes the checksum step (R122). -/
theorem trailerOk_sealFrame (tbl : CrcTable) (h : List Byte) : TrailerOk tbl (sealFrame tbl h) := by
  rw [TrailerOk, sealFrame_length, Nat.add_sub_cancel, sealFrame_take, sealFrame_drop]

end Sys2Proof.Machine
end

section
/-! SUPPORT. The fields of a write-field request (R76, R79). -/

namespace Sys2Proof.Machine

/-- A 16-bit value read back from its two bytes. -/
theorem le16_bytes (v : Half) : (lo8 v).toNat + 256 * (hi8 v).toNat = v.toNat := by
  simp [lo8, hi8, Nat.shiftRight_eq_div_pow]
  omega

/-- The request after its header is the payload and the trailer. -/
theorem buildWrite_eq (tbl : CrcTable) (a : Byte) (off : Half) (payload : List Byte) :
    buildWrite tbl a off payload =
      writeHeader a off payload.length ++ (payload ++ crc16 tbl (writeHeader a off payload.length ++ payload)) :=
  List.append_assoc _ _ _

theorem buildWrite_length (tbl : CrcTable) (a : Byte) (off : Half) (payload : List Byte) :
    (buildWrite tbl a off payload).length = 10 + payload.length := by
  simp [buildWrite]
  omega

/-- The first eight bytes of a request are its header's. -/
theorem buildWrite_getElem? {tbl : CrcTable} {a : Byte} {off : Half} {payload : List Byte} {i : Nat} (hi : i < 8) :
    (buildWrite tbl a off payload)[i]? = (writeHeader a off payload.length)[i]? := by
  rw [buildWrite_eq, List.getElem?_append_left (by simpa using hi)]

theorem buildWrite_take (tbl : CrcTable) (a : Byte) (off : Half) (payload : List Byte) :
    (buildWrite tbl a off payload).take (8 + payload.length) = writeHeader a off payload.length ++ payload := by
  have := sealFrame_take tbl (writeHeader a off payload.length ++ payload)
  rwa [List.length_append, writeHeader_length] at this

theorem buildWrite_drop (tbl : CrcTable) (a : Byte) (off : Half) (payload : List Byte) :
    (buildWrite tbl a off payload).drop (8 + payload.length) =
      crc16 tbl (writeHeader a off payload.length ++ payload) := by
  have := sealFrame_drop tbl (writeHeader a off payload.length ++ payload)
  rwa [List.length_append, writeHeader_length] at this

theorem le16_buildWrite {tbl : CrcTable} {a : Byte} {off : Half} {payload : List Byte} {i : Nat} (hi : i + 1 < 8) :
    le16 (buildWrite tbl a off payload) i = le16 (writeHeader a off payload.length) i := by
  simp only [le16, List.getD, buildWrite_getElem? hi, buildWrite_getElem? (Nat.lt_of_succ_lt hi)]

end Sys2Proof.Machine
end

section
/-! PROOFS. The statements about the frame codec (R76, R122, R130, R138, R139, R241). -/

namespace Sys2Proof.Machine

/-- Settles O18: the fields are those of `writeHeader`; the length fits its two bytes. -/
theorem frmWriteBuildsTheWriteFieldRequest : Obligations.FrmWriteBuildsTheWriteFieldRequest := by
  intro s a off payload hissuer h1 h2 hmax hdata
  have hx := List.getElem?_eq_getElem hissuer
  have hlegal : frmWriteOk s.params a payload = true := by
    simp [frmWriteOk, dataOk, addrOk, payloadMax, h1, h2, hmax, hdata]
  obtain ⟨hblock, hrest⟩ := respond_frame s s.issuer .ok (buildWrite s.params.crcTable a off payload) 0
  refine ⟨_, _, (exec_frmWrite hx a off payload).trans (if_pos hlegal), hblock, hrest, rfl, buildWrite_length _ _ _ _,
    buildWrite_getElem? (by decide), ?_, buildWrite_getElem? (by decide), buildWrite_getElem? (by decide),
    (le16_buildWrite (by decide)).trans (le16_bytes off), ?_, ?_, ?_⟩
  · rw [buildWrite_getElem? (by decide), buildWrite_length]
    rfl
  · refine (le16_buildWrite (by decide)).trans ((le16_bytes (BitVec.ofNat 16 payload.length)).trans ?_)
    rw [BitVec.toNat_ofNat]
    omega
  · rw [slice, buildWrite_take]
    exact List.drop_left' rfl
  · rw [buildWrite_drop, buildWrite_take]

/-- Settles O21: past the checksum the length field would have to be 7 and the length. -/
theorem writeReplyOfAnotherLengthIsRejected : Obligations.WriteReplyOfAnotherLengthIsRejected := by
  intro tbl a L hne
  refine ⟨verify_short, verify_corrupt, fun hlen hcrc _ _ _ => ?_⟩
  rw [verify_of_trailerOk hlen hcrc, if_neg]
  rintro ⟨-, -, -, hseven, hfield⟩
  exact hne (hfield.symm.trans (hseven rfl))

/-- Settles O22: the reply passes every check, and bytes 9 to 168 of it are the block. -/
theorem readAllReplyRoundTrip : Obligations.ReadAllReplyRoundTrip := by
  intro tbl block x5 x6 x7 x8 hblock head reply
  have hhead : (head ++ block).length = 169 := by simp [head, hblock]
  have hreply : reply = sealFrame tbl (head ++ block) := rfl
  have hlen : reply.length = 171 := by rw [hreply, sealFrame_length, hhead]
  have hbody : reply.take 169 = head ++ block := by rw [hreply, ← hhead, sealFrame_take]
  have hbyte (i : Nat) (hi : i < 9) : reply[i]? = head[i]? := by
    rw [hreply, sealFrame, List.append_assoc, List.getElem?_append_left hi]
  have hok : HeaderOk 5 .read reply := by
    refine ⟨.inl (hbyte 0 (by decide)), hbyte 3 (by decide), hbyte 4 (by decide), nofun, ?_⟩
    rw [hlen, le16, List.getD, List.getD, hbyte 1 (by decide), hbyte 2 (by decide)]
    rfl
  refine ⟨?_, hlen, hlen ▸ by decide, hlen ▸ by decide⟩
  refine verify_eq_ok_iff.2 ⟨hlen ▸ by decide, hreply ▸ trailerOk_sealFrame _ _, hok, ?_⟩
  rw [payloadOf, slice, hlen, hbody]
  exact List.drop_left' rfl

/-- Settles O23: both builders seal their frame, so only the checks after the checksum are left. -/
theorem builtRequestsPassTheChecksumStep : Obligations.BuiltRequestsPassTheChecksumStep := by
  intro tbl a b f off payload frame hframe
  obtain ⟨h, hlong, rfl⟩ : ∃ h : List Byte, 1 ≤ h.length ∧ frame = sealFrame tbl h := by
    rcases hframe with rfl | rfl
    · exact ⟨_, by simp, rfl⟩
    · exact ⟨_, by simp; omega, rfl⟩
  have hcrc := trailerOk_sealFrame tbl h
  rw [verify_of_trailerOk (by simpa using hlong) hcrc]
  refine ⟨hcrc, ?_, ?_⟩ <;> split <;> nofun

/-- Settles O24: the reply and what is kept of it would both have to be as long as the same length field says. -/
theorem truncatedRepliesNeverVerify : Obligations.TruncatedRepliesNeverVerify := by
  intro tbl a f reply payload payload' m hverify hm hkept
  obtain ⟨-, -, ⟨-, -, -, -, hlen⟩, -⟩ := verify_eq_ok_iff.1 hverify
  obtain ⟨hthree, -, ⟨-, -, -, -, hlen'⟩, -⟩ := verify_eq_ok_iff.1 hkept
  rw [List.length_take, Nat.min_eq_left (Nat.le_of_lt hm)] at hthree hlen'
  rw [le16_take hthree] at hlen'
  omega

end Sys2Proof.Machine
end

section
/-! SUPPORT. The bitwise CRC register (R106, R107): its step is linear and loses nothing, and four steps absorb a
nibble as the nibble step with the default tables does (R102). -/

namespace Sys2Proof.Machine

/-- What a step of the register adds to the shift: the polynomial if the top bit was set (R106). -/
def polyTop (r : Half) : Half := if r.getLsbD 15 then 0x1021 else 0

theorem polyStep_eq (r : Half) : polyStep r = r <<< 1 ^^^ polyTop r := by
  unfold polyStep polyTop
  split
  · rfl
  · exact (BitVec.xor_zero).symm

theorem polyTop_xor (r q : Half) : polyTop (r ^^^ q) = polyTop r ^^^ polyTop q := by
  simp only [polyTop, BitVec.getLsbD_xor]
  cases r.getLsbD 15 <;> cases q.getLsbD 15 <;> rfl

theorem polyStep_xor (r q : Half) : polyStep (r ^^^ q) = polyStep r ^^^ polyStep q := by
  simp only [polyStep_eq, polyTop_xor, BitVec.shiftLeft_xor_distrib]
  ac_rfl

theorem polyStep_of_top_clear {r : Half} (h : r.getLsbD 15 = false) : polyStep r = r <<< 1 :=
  if_neg (by rw [h]; exact Bool.false_ne_true)

/-- The lowest bit after a step is the top bit before it, the polynomial being odd. -/
theorem getLsbD_zero_polyStep (r : Half) : (polyStep r).getLsbD 0 = r.getLsbD 15 := by
  rw [polyStep_eq, polyTop, BitVec.getLsbD_xor, BitVec.getLsbD_shiftLeft]
  cases r.getLsbD 15 <;> rfl

theorem polyStep_injective : Function.Injective polyStep := by
  intro r q h
  have htop : r.getLsbD 15 = q.getLsbD 15 := by rw [← getLsbD_zero_polyStep, h, getLsbD_zero_polyStep]
  have hshift : r <<< 1 = q <<< 1 := by
    have hcorrection : polyTop r = polyTop q := by rw [polyTop, polyTop, htop]
    rw [polyStep_eq, polyStep_eq, hcorrection] at h
    exact (BitVec.xor_left_inj _).1 h
  ext i hi
  by_cases hlast : i = 15
  · subst hlast
    exact htop
  · have hbit := congrArg (BitVec.getLsbD · (i + 1)) hshift
    simpa [show i + 1 < 16 by omega, hi] using hbit

/-- Four steps of the register, which absorb a nibble. -/
def polySteps4 (r : Half) : Half := polyStep (polyStep (polyStep (polyStep r)))

theorem polySteps4_xor (r q : Half) : polySteps4 (r ^^^ q) = polySteps4 r ^^^ polySteps4 q := by
  simp only [polySteps4, polyStep_xor]

theorem polySteps4_injective : Function.Injective polySteps4 :=
  polyStep_injective.comp (polyStep_injective.comp (polyStep_injective.comp polyStep_injective))

/-- A register whose top nibble is 0 is only shifted. -/
theorem polySteps4_of_small (r : BitVec 12) : polySteps4 (r.setWidth 16) = r.setWidth 16 <<< 4 := by
  have clear (k : Nat) (hk : k ≤ 3) : polyStep (r.setWidth 16 <<< k) = r.setWidth 16 <<< (k + 1) := by
    have hbit : r.getLsbD (15 - k) = false := BitVec.getLsbD_of_ge r _ (by omega)
    rw [polyStep_of_top_clear (by simp [hbit]), ← BitVec.shiftLeft_add]
  have hzero : r.setWidth 16 = r.setWidth 16 <<< 0 := (BitVec.shiftLeft_zero _).symm
  conv_lhs => rw [hzero]
  rw [polySteps4, clear 0 (by decide), clear 1 (by decide), clear 2 (by decide), clear 3 (by decide)]

/-- Four steps shift the register by a nibble and add the table entry of the nibble shifted out (R107). -/
theorem polySteps4_eq (r : Half) : polySteps4 r = r <<< 4 ^^^ tableEntry (r.extractLsb' 12 4) := by
  have hsplit : r = (r.setWidth 12).setWidth 16 ^^^ (r.extractLsb' 12 4).setWidth 16 <<< 12 := by
    ext i hi
    by_cases h : i < 12
    · simp [h, BitVec.getLsbD_eq_getElem hi]
    · have hback : 12 + (i - 12) = i := by omega
      simp [h, hback, BitVec.getLsbD_eq_getElem hi, show i - 12 < 4 by omega]
  have hshift : r <<< 4 = (r.setWidth 12).setWidth 16 <<< 4 := by
    ext i hi
    simp [show i - 4 < 12 by omega, BitVec.getLsbD_eq_getElem (show i - 4 < 16 by omega)]
  conv_lhs => rw [hsplit, polySteps4_xor, polySteps4_of_small, ← hshift]
  rfl

/-- The accumulator as one 16-bit register, CRC_HI above CRC_LO (R100). -/
def Acc.word (acc : Acc) : Half := acc.hi ++ acc.lo

theorem Acc.lo8_word (acc : Acc) : lo8 acc.word = acc.lo := extract_append_low acc.hi acc.lo

theorem Acc.hi8_word (acc : Acc) : hi8 acc.word = acc.hi :=
  (extract_append_high acc.hi acc.lo 0 8).trans (extract_all acc.hi)

theorem getLsbD_bytes (x y : Byte) (i : Nat) :
    (x ++ y : Half).getLsbD i = if i < 8 then y.getLsbD i else x.getLsbD (i - 8) := BitVec.getLsbD_append

/-- The shift of R102 is the shift of the register. -/
theorem Acc.word_shiftLeft (acc : Acc) :
    acc.word <<< 4 = (acc.hi <<< 4 ||| acc.lo >>> 4) ++ acc.lo <<< 4 := by
  apply BitVec.eq_of_getLsbD_eq
  intro i hi
  rw [BitVec.getLsbD_shiftLeft, Acc.word, getLsbD_bytes, getLsbD_bytes]
  by_cases hlow : i < 4
  · simp [hlow, show i < 8 by omega]
  · by_cases hbyte : i < 8
    · simp [hlow, hbyte, hi, show i - 4 < 8 by omega]
    · by_cases hnibble : i < 12
      · have hback : 4 + (i - 8) = i - 4 := by omega
        simp [hlow, hbyte, hi, hback, show i - 4 < 8 by omega, show i - 8 < 4 by omega]
      · have hback : i - 8 - 4 = i - 4 - 8 := by omega
        have habove : acc.lo.getLsbD (4 + (i - 8)) = false := BitVec.getLsbD_of_ge _ _ (by omega)
        simp [hlow, hbyte, hi, hback, habove, show ¬i - 4 < 8 by omega, show ¬i - 8 < 4 by omega,
          show i - 8 < 8 by omega, BitVec.getLsbD_eq_getElem (show i - 4 - 8 < 8 by omega)]

/-- The nibble of R102 that selects the table entry. -/
theorem Acc.topNibble_word (acc : Acc) (n : BitVec 4) :
    (acc.word ^^^ n.setWidth 16 <<< 12).extractLsb' 12 4 = (acc.hi >>> 4).setWidth 4 ^^^ n := by
  ext i hi
  have hword : acc.word.getLsbD (12 + i) = acc.hi.getLsbD (4 + i) := by
    rw [Acc.word, getLsbD_bytes, if_neg (by omega), show 12 + i - 8 = 4 + i by omega]
  simp [← BitVec.getLsbD_eq_getElem, hword, hi, show 12 + i < 16 by omega, show i < 16 by omega]

/-- R107: the default tables are the ones generated from the polynomial. -/
theorem defaultCrcTable_eq (t : BitVec 4) :
    lookupHi defaultCrcTable t = hi8 (tableEntry t) ∧ lookupLo defaultCrcTable t = lo8 (tableEntry t) := by
  revert t
  decide

theorem lookup_append (t : BitVec 4) : lookupHi defaultCrcTable t ++ lookupLo defaultCrcTable t = tableEntry t := by
  obtain ⟨hhi, hlo⟩ := defaultCrcTable_eq t
  rw [hhi, hlo]
  exact append_extract (n := 8) (m := 8) (tableEntry t)

/-- The nibble step with the default tables is four steps of the bitwise register (R102, R106). -/
theorem nibbleStep_word (acc : Acc) (n : BitVec 4) :
    (nibbleStep defaultCrcTable acc n).word = polySteps4 (acc.word ^^^ n.setWidth 16 <<< 12) := by
  have hout : n.setWidth 16 <<< 12 <<< 4 = 0#16 := by
    rw [← BitVec.shiftLeft_add]
    exact BitVec.shiftLeft_eq_zero (le_refl 16)
  rw [polySteps4_eq, acc.topNibble_word, BitVec.shiftLeft_xor_distrib, hout, BitVec.xor_zero, acc.word_shiftLeft,
    ← lookup_append, BitVec.xor_append]
  rfl

/-- A byte's place in the register, by its nibbles. -/
theorem byte_shift_eq_nibbles (b : Byte) : b.setWidth 16 <<< 8 =
    (b.extractLsb' 4 4).setWidth 16 <<< 12 ^^^ ((b.extractLsb' 0 4).setWidth 12 <<< 8).setWidth 16 := by
  ext i hi
  by_cases hlow : i < 8
  · simp [hlow, show i < 12 by omega]
  · by_cases hnibble : i < 12
    · simp [hlow, hnibble, show i - 8 < 4 by omega]
    · have hback : 4 + (i - 12) = i - 8 := by omega
      simp [hlow, hnibble, hback, show i - 12 < 4 by omega]

/-- Four steps bring the low nibble of a byte to the top. -/
theorem polySteps4_lowNibble (n : BitVec 4) :
    polySteps4 ((n.setWidth 12 <<< 8).setWidth 16) = n.setWidth 16 <<< 12 := by
  rw [polySteps4_of_small]
  ext i hi
  by_cases hnibble : i < 12
  · simp [hnibble, show i - 4 < 8 by omega]
  · have hback : i - 4 - 8 = i - 12 := by omega
    simp [hnibble, hback, show ¬i < 4 by omega, show ¬i - 4 < 8 by omega, show i - 4 < 12 by omega]

/-- The byte update with the default tables is the bitwise register's (R103, R106). -/
theorem crcUpdate_word (acc : Acc) (b : Byte) :
    (crcUpdate defaultCrcTable acc b).word = crcBitwiseByte acc.word b := by
  rw [crcUpdate, nibbleStep_word, nibbleStep_word, ← polySteps4_lowNibble (b.extractLsb' 0 4), ← polySteps4_xor,
    BitVec.xor_assoc, ← byte_shift_eq_nibbles]
  rfl

/-- The checksum with the default tables is the bitwise CRC-16, low byte first (R104, R106). -/
theorem crcFold_word (bytes : List Byte) : (crcFold defaultCrcTable bytes).word = crcBitwise bytes := by
  have hseed : Acc.seed.word = 0xFFFF := rfl
  have hfold (acc : Acc) : (bytes.foldl (crcUpdate defaultCrcTable) acc).word =
      bytes.foldl crcBitwiseByte acc.word := by
    induction bytes generalizing acc with
    | nil => rfl
    | cons b bytes ih => rw [List.foldl_cons, List.foldl_cons, ih, crcUpdate_word]
  rw [crcFold, hfold, hseed, crcBitwise]

theorem crc16_default (bytes : List Byte) :
    crc16 defaultCrcTable bytes = [lo8 (crcBitwise bytes), hi8 (crcBitwise bytes)] := by
  rw [← crcFold_word, Acc.lo8_word, Acc.hi8_word]
  rfl

end Sys2Proof.Machine
end

section
/-! SUPPORT. The bitwise CRC tells byte lists apart that differ in one byte (R137). -/

namespace Sys2Proof.Machine

theorem crcBitwiseByte_injective_register (b : Byte) : Function.Injective (crcBitwiseByte · b) := by
  intro r q h
  exact (BitVec.xor_left_inj _).1 (polySteps4_injective (polySteps4_injective h))

theorem crcBitwiseByte_injective_byte (r : Half) : Function.Injective (crcBitwiseByte r) := by
  intro b c h
  have hshift := (BitVec.xor_right_inj _).1 (polySteps4_injective (polySteps4_injective h))
  ext i hi
  have hbit := congrArg (BitVec.getLsbD · (i + 8)) hshift
  simpa [show i + 8 < 16 by omega, hi, BitVec.getLsbD_eq_getElem hi] using hbit

theorem foldl_crcBitwiseByte_injective (bytes : List Byte) : Function.Injective (bytes.foldl crcBitwiseByte) := by
  induction bytes with
  | nil => exact fun _ _ h => h
  | cons b bytes ih => exact fun _ _ h => crcBitwiseByte_injective_register b (ih h)

/-- Changing one byte changes the CRC. -/
theorem crcBitwise_set_ne {bytes : List Byte} {i : Nat} {b : Byte} (hi : i < bytes.length) (hne : b ≠ bytes[i]) :
    crcBitwise (bytes.set i b) ≠ crcBitwise bytes := by
  intro h
  have hold : bytes = bytes.take i ++ bytes[i] :: bytes.drop (i + 1) := by simp
  rw [List.set_eq_take_append_cons_drop, if_pos hi] at h
  conv_rhs at h => rw [hold]
  simp only [crcBitwise, List.foldl_append, List.foldl_cons] at h
  exact hne (crcBitwiseByte_injective_byte _ (foldl_crcBitwiseByte_injective _ h))

theorem crc16_default_injective {xs ys : List Byte} (h : crc16 defaultCrcTable xs = crc16 defaultCrcTable ys) :
    crcBitwise xs = crcBitwise ys := by
  rw [crc16_default, crc16_default, List.cons.injEq, List.cons.injEq] at h
  obtain ⟨hlo, hhi, -⟩ := h
  have hbytes (r : Half) : hi8 r ++ lo8 r = r := append_extract (n := 8) (m := 8) r
  rw [← hbytes (crcBitwise xs), hlo, hhi, hbytes]

/-- One changed byte anywhere in a frame breaks its trailer: either what the trailer covers has another checksum, or
the trailer itself is another one. -/
theorem not_trailerOk_set {reply : List Byte} {i : Nat} {b : Byte} (h : TrailerOk defaultCrcTable reply)
    (hi : i < reply.length) (hne : b ≠ reply[i]) : ¬TrailerOk defaultCrcTable (reply.set i b) := by
  intro h'
  rw [TrailerOk, List.length_set] at h'
  by_cases hbody : i < reply.length - 2
  · rw [List.drop_set_of_lt hbody, List.take_set, ← h] at h'
    have hlt : i < (reply.take (reply.length - 2)).length := by rw [List.length_take]; omega
    exact crcBitwise_set_ne hlt (by simpa using hne) (crc16_default_injective h')
  · have hge : reply.length - 2 ≤ i := Nat.le_of_not_lt hbody
    rw [List.take_set_of_le hge, h] at h'
    have hbyte := congrArg (·[i - (reply.length - 2)]?) h'
    exact hne (by simpa [List.getElem?_drop, Nat.add_sub_cancel' hge, hi] using hbyte.symm)

theorem flipBit_eq {bytes : List Byte} {i : Nat} (j : Nat) (hi : i < bytes.length) :
    flipBit bytes i j = bytes.set i (bytes[i] ^^^ BitVec.twoPow 8 j) := by
  rw [flipBit, List.getD_eq_getElem _ _ hi]

theorem xor_twoPow_ne {n j : Nat} (b : BitVec n) (hj : j < n) : b ^^^ BitVec.twoPow n j ≠ b := by
  intro h
  have hbit := congrArg (BitVec.getLsbD · j) h
  simp [hj] at hbit

end Sys2Proof.Machine
end

section
/-! PROOFS. The statements about the checksum with the default tables (R106, R107, R137; log 9). -/

namespace Sys2Proof.Machine

/-- Settles O15: the tables entry by entry, and each byte update as eight steps of the bitwise register. -/
theorem checksumIsTheBitwiseCrc : Obligations.ChecksumIsTheBitwiseCrc :=
  ⟨defaultCrcTable_eq, crc16_default, by decide +kernel⟩

/-- Settles O16: the flip changes one byte, which breaks the trailer and not the length. -/
theorem singleBitFlipsFailTheChecksum : Obligations.SingleBitFlipsFailTheChecksum := by
  intro a f reply payload i j hverify hi hj
  obtain ⟨hlen, hcrc, -⟩ := verify_eq_ok_iff.1 hverify
  rw [flipBit_eq j hi]
  exact verify_corrupt (by rwa [List.length_set]) (not_trailerOk_set hcrc hi (xor_twoPow_ne _ hj))

end Sys2Proof.Machine
end

section
/-! SUPPORT. The state after each transition as the statements about single transitions read it: the ports after a
release, the counters after a hard failure, the grant the transport makes by itself. -/

namespace Sys2Proof.Machine

theorem crc?_of_modify_state {s u : State} {q : Nat} {st : PortState}
    (h : u.ports = s.ports.modify q (fun x => { x with state := st })) (p : Nat) : u.crc? p = s.crc? p := by
  simp only [State.crc?, h, List.getElem?_modify]
  cases s.ports[p]? with
  | none => rfl
  | some x => by_cases hq : q = p <;> simp [hq]

/-- From s to u port p goes to st and keeps its other registers, and the other ports keep theirs. -/
abbrev State.OnlyPortState (s u : State) (p : Nat) (st : PortState) : Prop :=
  u.portState? p = some st ∧ u.crc? p = s.crc? p ∧ u.cmd? p = s.cmd? p ∧ s.KeepsOtherPorts u p

theorem onlyPortState_of_modify {s u : State} {p : Nat} {c : Command} {st : PortState} (hcmd : s.cmd? p = some c)
    (h : u.ports = s.ports.modify p (fun x => { x with state := st })) : s.OnlyPortState u p st := by
  obtain ⟨x, hx, -⟩ := cmd?_eq_some.1 hcmd
  exact ⟨portState?_of_modify_state_eq h (portState?_eq_some.2 ⟨x, hx, rfl⟩), crc?_of_modify_state h p,
    cmd?_of_modify_state h p, keepsOtherPorts_modify h⟩

/-- A hard failure counts HARD and TXN of the owner's address and direction, and no other counter (R163, R164). -/
theorem hardFail_stat {s : State} {t : Txn} (hl : s.stats.length = statCount) (h1 : 1 ≤ t.a.toNat)
    (h2 : t.a.toNat ≤ 32) (b : Nat) (d : Dir) (k : Counter) :
    (s.hardFail t).stat b d k =
      if b = t.a.toNat ∧ d = t.f ∧ (k = .hard ∨ k = .txn) then satInc s.params.ctrW (s.stat b d k)
      else s.stat b d k := by
  rw [stat_congr (s.hardFail_stats t), incStat_stat _ _ (by rwa [incStat_stats_length]) h1 h2,
    incStat_stat _ _ hl h1 h2, State.incStat_params]
  by_cases howner : b = t.a.toNat ∧ d = t.f
  · obtain ⟨rfl, rfl⟩ := howner
    cases k <;> simp
  · have hother (Q : Prop) : ¬(b = t.a.toNat ∧ d = t.f ∧ Q) := fun ⟨hb, hd, _⟩ => howner ⟨hb, hd⟩
    simp only [if_neg (hother _)]

/-- Some waiting port, if there is one, is the transport's own choice (R154; log 2). -/
theorem ownGrant_of_waiting {s : State} (h : ∃ q, s.portState? q = some .waiting) :
    ∃ q, s.ownGrant = some (.grant q) ∧ s.portState? q = some .waiting := by
  have mem_waiting (q : Nat) : q ∈ s.waiting ↔ s.portState? q = some .waiting := by
    simp only [State.waiting, List.mem_filter, List.mem_range, decide_eq_true_eq]
    exact and_iff_right_of_imp portState?_lt
  obtain ⟨r, hr⟩ := h
  unfold State.ownGrant
  cases hw : s.waiting with
  | nil =>
    rw [← mem_waiting, hw] at hr
    cases hr
  | cons q qs =>
    refine ⟨_, rfl, (mem_waiting _).1 ?_⟩
    have hlt : Config.grantChoice s.draws % (q :: qs).length < (q :: qs).length := Nat.mod_lt _ (Nat.succ_pos _)
    rw [List.getD_eq_getElem _ _ hlt, hw]
    exact List.getElem_mem hlt

theorem opened_iff_ok (w : OpenAnswer) : linkAfterOpen w = .opened ↔ w = .ok := by cases w <;> decide

end Sys2Proof.Machine
end

section
/-! PROOFS. The statements about single transitions of the transport (R151, R154, R156, R157, R160 to R165), the reset
(R230 to R233) and the construction (R30, R206). -/

namespace Sys2Proof.Machine

/-- Settles O26: the open of T_INIT can happen, so the step makes its move. -/
theorem initialOpenSetsTheLinkState : Obligations.InitialOpenSetsTheLinkState := by
  intro s answer rest hinit hi
  have hstep := (step_head hi (enabled_linkOpen.2 (.inl hinit))).trans (perform_initOpen answer hinit)
  exact ⟨_, hstep, rfl, opened_iff_ok answer, rfl, rfl, rfl, rfl, rfl, rfl, rfl, rfl, rfl⟩

/-- Settles O27: the grant can happen, and it changes of the ports only q's PORT_STATE. -/
theorem grantGivesTheLockToAWaitingPort : Obligations.GrantGivesTheLockToAWaitingPort := by
  intro s q rest hidle hfree hwaiting hi
  have hstep := step_head hi (enabled_grant.2 ⟨hidle, hfree, hwaiting⟩)
  obtain ⟨x, hx, -⟩ := portState?_eq_some.1 hwaiting
  obtain ⟨hstate, hcrc, hcmd, hports⟩ :=
    onlyPortState_of_modify (cmd?_eq_some.2 ⟨x, hx, rfl⟩) (State.grantTo_ports { s with inputs := rest } q)
  exact ⟨_, hstep, by simp, hstate, hcmd, hcrc, by simp, by simp, hports, by simp, by simp, by simp, by simp, by simp,
    by simp, by simp⟩

/-- Settles O28: with nothing else to happen the step makes the own grant, which is one of a waiting port. -/
theorem ownGrantChoosesSomeWaitingPort : Obligations.OwnGrantChoosesSomeWaitingPort := by
  intro s hidle hfree hsome hnone
  obtain ⟨q, hown, hwaiting⟩ := ownGrant_of_waiting hsome
  have hmove : s.ownMove = some (.grant q) := by simp [State.ownMove, hidle, hown]
  have hports := State.grantTo_ports { s with draws := s.draws + 1 } q
  exact ⟨_, q, step_ownMove hnone hmove (enabled_grant.2 ⟨hidle, hfree, hwaiting⟩), hwaiting, by simp,
    portState?_of_modify_state_eq hports hwaiting, by simp, by simp, keepsOtherPorts_modify hports⟩

/-- Settles O30: the write can happen, and its move is `send_eq` for the lock owner's command. -/
theorem sendOffersTheOwnersFrame : Obligations.SendOffersTheOwnersFrame := by
  intro s p c answer rest hsend hopen hlock hcmd hi
  have ht := txn_of_cmd hlock hcmd
  rw [step_head hi (enabled_linkWrite.2 ⟨hsend, hopen, _, ht⟩), perform_linkWrite (s := { s with inputs := rest }) ht,
    send_eq]

/-- Settles O31: the window's end can happen, and its move is `State.receive` for the lock owner's command. -/
theorem receiveKeepsAtMostRxMaxBytes : Obligations.ReceiveKeepsAtMostRxMaxBytes := by
  intro s p c rest hrecv hlock hcmd
  have ht := txn_of_cmd hlock hcmd
  have hstep {w : ReadAnswer} (hi : s.inputs = .linkRead w :: rest) := (step_head hi
    (enabled_linkRead.2 ⟨hrecv, _, ht⟩)).trans (perform_linkRead (s := { s with inputs := rest }) ht w)
  exact ⟨fun _ hi => hstep hi, fun hi => hstep hi⟩

/-- Settles O32: the move is `completeOk` for the lock owner's command, whose address the invariant puts in range. -/
theorem acceptedReplyCompletesTheTransaction : Obligations.AcceptedReplyCompletesTheTransaction := by
  intro s p c payload rest hinv hcheck hlock hcmd hi hverify
  have ht := txn_of_cmd hlock hcmd
  obtain ⟨hlow, hhigh⟩ := addr_of_lockOwner hinv hlock hcmd
  obtain ⟨⟨-, hlen, -⟩, -⟩ := hinv
  let s₁ : State := { s with inputs := rest }
  let t : Txn := ⟨p, addrField c.word, dirField c.word, c.data⟩
  have hstep : step s = .next (s₁.completeOk t payload) := by
    rw [step_head hi (enabled_check.2 ⟨hcheck, _, ht⟩), perform_check (s := s₁) ht, checkReply_ok hverify]
  obtain ⟨hstate, hcrc, hcmd', hports⟩ := onlyPortState_of_modify (s := s₁) hcmd (s₁.completeOk_ports t payload)
  refine ⟨_, hstep, s₁.completeOk_responses t payload, hstate, hcrc, hcmd', by simp, by simp, by simp, by simp [s₁],
    by simp [s₁], by simp [s₁], by simp [s₁], hports, by simp [s₁], fun b d k => ?_⟩
  rw [stat_congr (s₁.completeOk_stats t payload)]
  exact incStat_stat (s := s₁) _ _ hlen hlow hhigh b d k

/-- Settles O34: the move is `nextAttempt` for the lock owner's command. -/
theorem backoffEndsInRetryOrHardFailure : Obligations.BackoffEndsInRetryOrHardFailure := by
  intro s p c rest hinv hback hlock hcmd hi
  have ht := txn_of_cmd hlock hcmd
  obtain ⟨hlow, hhigh⟩ := addr_of_lockOwner hinv hlock hcmd
  obtain ⟨⟨-, hlen, -⟩, -⟩ := hinv
  let s₁ : State := { s with inputs := rest }
  let t : Txn := ⟨p, addrField c.word, dirField c.word, c.data⟩
  have hstep : step s = .next (s₁.nextAttempt t) :=
    (step_head hi (enabled_backoffEnd.2 ⟨hback, _, ht⟩)).trans (perform_backoffEnd (s := s₁) ht)
  constructor
  · intro hleft
    rw [hstep, nextAttempt_retry (s := s₁) t hleft]
  · intro hlast
    have hnone : ¬ s₁.attempt < maxAttempts := Nat.not_lt.2 (Nat.le_of_eq hlast.symm)
    rw [nextAttempt_hardFail t hnone] at hstep
    obtain ⟨hstate, hcrc, hcmd', hports⟩ := onlyPortState_of_modify (s := s₁) hcmd (s₁.hardFail_ports t)
    exact ⟨_, hstep, s₁.hardFail_responses t, hstate, hcrc, hcmd', by simp, by simp, by simp, by simp [s₁],
      by simp [s₁], by simp [s₁], by simp [s₁], hports, by simp [s₁], hardFail_stat (s := s₁) hlen hlow hhigh⟩

/-- Settles O35: the move is `nextAttempt` after the close, the open and the count of the attempt. -/
theorem reconnectUsesUpAnAttempt : Obligations.ReconnectUsesUpAnAttempt := by
  intro s p c answer rest hinv hrec hlock hcmd hi
  have ht := txn_of_cmd hlock hcmd
  obtain ⟨hlow, hhigh⟩ := addr_of_lockOwner hinv hlock hcmd
  obtain ⟨⟨-, hlen, -⟩, -⟩ := hinv
  let t : Txn := ⟨p, addrField c.word, dirField c.word, c.data⟩
  let s₁ : State := ({ s with inputs := rest } : State).reopened t answer
  have hstep : step s = .next (s₁.nextAttempt t) :=
    (step_head hi (enabled_linkOpen.2 (.inr ⟨hrec, _, ht⟩))).trans
      (perform_reconnect (s := { s with inputs := rest }) ht answer hrec)
  by_cases hleft : s.attempt + 1 < 5
  · rw [nextAttempt_retry (s := s₁) t hleft] at hstep
    exact ⟨_, hstep, opened_iff_ok answer, rfl, rfl, rfl, rfl, fun _ => ⟨rfl, rfl, rfl, rfl, rfl, rfl⟩,
      fun hlast => absurd hleft (by omega)⟩
  · rw [nextAttempt_hardFail (s := s₁) t hleft] at hstep
    obtain ⟨hstate, hcrc, hcmd', hports⟩ := onlyPortState_of_modify (s := s₁) hcmd (s₁.hardFail_ports t)
    refine ⟨_, hstep, ?_, s₁.hardFail_rxbuf t, s₁.hardFail_params t, s₁.hardFail_linkLog t, s₁.hardFail_inputs t,
      fun hmore => absurd hmore hleft, fun _ => ⟨by simp, by simp, by simp, hstate, hcrc, hcmd', hports,
        s₁.hardFail_responses t, hardFail_stat (s := s₁) hlen hlow hhigh⟩⟩
    rw [s₁.hardFail_linkState t]
    exact opened_iff_ok answer

/-- Settles O48: the reset can always happen, and its move is `resetBlock`. -/
theorem resetDropsEveryCommand : Obligations.ResetDropsEveryCommand := by
  intro s rest hi
  exact ⟨_, step_head hi rfl, ⟨rfl, rfl, rfl, rfl, rfl, rfl, rfl, rfl⟩, rfl, rfl, rfl⟩

/-- Settles O49: the check of R30 compares the two fields, and the reset state has N_PORTS ports, all IDLE. -/
theorem constructionNeedsExactlyOneLinkField : Obligations.ConstructionNeedsExactlyOneLinkField := by
  intro ps cfg
  constructor
  · intro hone
    have hvalid : linkCfgValid cfg = true := by
      rcases hone with ⟨hbridge, hdevice⟩ | ⟨hbridge, hdevice⟩ <;> simp [linkCfgValid, hbridge, hdevice]
    exact ⟨if_pos hvalid, List.length_replicate, ps.nPorts_pos, fun p hp => portState?_resetWith hp⟩
  · intro hboth
    have hinvalid : ¬ linkCfgValid cfg = true := by
      rcases hboth with ⟨hbridge, hdevice⟩ | ⟨hbridge, hdevice⟩ <;> simp [linkCfgValid, hbridge, hdevice]
    exact if_neg hinvalid

end Sys2Proof.Machine
end

section
/-! SUPPORT. Runs of a transaction (R154 to R163): one attempt from its send to its check, and one that fails up to
what follows its backoff. The check and the backoff's end are the transport's own moves (log 2). -/

namespace Sys2Proof.Machine

theorem runSteps_of_step {s t : State} (h : step s = .next t) (k : Nat) : runSteps (k + 1) s = runSteps k t := by
  simp only [runSteps, Host.Core.run, h]

/-- The events are answers of the link, which nothing waits for at a check or in a backoff. -/
abbrev LinkAnswers (es : List Event) : Prop := ∀ e ∈ es, (∃ w, e = .linkWrite w) ∨ (∃ w, e = .linkRead w)

theorem not_enabled_of_linkAnswers {s : State} (hans : LinkAnswers s.inputs)
    (hstands : s.tState = .tCheck ∨ s.tState = .tBackoff) : ∀ e ∈ s.inputs, s.enabled e = false := by
  intro e he
  rcases hans e he with ⟨w, rfl⟩ | ⟨w, rfl⟩ <;> rcases hstands with h | h <;> simp [State.enabled, h]

/-- The state at the check of an attempt whose window was offered w (R156, R157; log 13). -/
def State.atCheck (s : State) (t : Txn) (w : List Byte) (rest : List Event) : State :=
  { s with
    inputs := rest, rxbuf := w.take s.params.rxMax, tState := .tCheck,
    linkLog := .received t.p (w.take s.params.rxMax) :: .write t.p t.frame .ok :: s.linkLog }

section attempt

variable {s : State} {t : Txn} {w : List Byte} {rest : List Event} (ht : s.txn? = some t)
  (hin : s.inputs = .linkWrite .ok :: .linkRead (.bytes w) :: rest) (hopen : s.linkState = .opened)
  (hsend : s.tState = .tSend) (hrest : LinkAnswers rest)

include ht hin hopen hsend

/-- A write and a window lead from the send to the check. -/
theorem runSteps_atCheck (k : Nat) : runSteps (k + 2) s = runSteps k (s.atCheck t w rest) := by
  let s₁ : State := { s with inputs := .linkRead (.bytes w) :: rest }
  have hwrite : step s = .next (s₁.send t .ok) :=
    (step_head hin (enabled_linkWrite.2 ⟨hsend, hopen, t, ht⟩)).trans (perform_linkWrite (s := s₁) ht .ok)
  have hends : (s₁.send t .ok).enabled (.linkRead (.bytes w)) = true := enabled_linkRead.2 ⟨rfl, t, ht⟩
  have hread : step (s₁.send t .ok) = .next (s.atCheck t w rest) := (step_head rfl hends).trans
    (perform_linkRead (s := { s₁.send t .ok with inputs := rest }) ht (.bytes w))
  rw [runSteps_of_step hwrite, runSteps_of_step hread]

include hrest

/-- The transport checks the reply by itself when nothing offered can happen. -/
theorem runSteps_checked (k : Nat) : runSteps (k + 3) s =
    runSteps k ({ s.atCheck t w rest with draws := s.draws + 1 }.checkReply t) := by
  let s₁ : State := s.atCheck t w rest
  have hends : s₁.enabled .check = true := enabled_check.2 ⟨rfl, t, ht⟩
  have hcheck : step s₁ = .next ({ s₁ with draws := s.draws + 1 }.checkReply t) :=
    (step_ownMove (not_enabled_of_linkAnswers hrest (.inl rfl)) rfl hends).trans
      (perform_check (s := { s₁ with draws := s.draws + 1 }) ht)
  rw [runSteps_atCheck ht hin hopen hsend, runSteps_of_step hcheck]

end attempt

/-- From s to u, n attempts of t failed verification: n soft errors are counted, and ATTEMPT has gone up by n. -/
structure State.Failed (s u : State) (t : Txn) (n : Nat) : Prop where
  ports : u.ports = s.ports
  lockOwner : u.lockOwner = s.lockOwner
  linkState : u.linkState = s.linkState
  params : u.params = s.params
  responses : u.responses = s.responses
  attempt : u.attempt = s.attempt + n
  statsLength : u.stats.length = s.stats.length
  softErrors : u.softErrors t.a.toNat t.f = s.softErrors t.a.toNat t.f + n
  bounded : ∀ k, u.stat t.a.toNat t.f k ≤ s.stat t.a.toNat t.f k + n
  hard : u.stat t.a.toNat t.f .hard = s.stat t.a.toNat t.f .hard
  txn : u.stat t.a.toNat t.f .txn = s.stat t.a.toNat t.f .txn
  others : s.KeepsOtherStats u t.a.toNat t.f

theorem State.Failed.refl (s : State) (t : Txn) : s.Failed s t 0 :=
  ⟨rfl, rfl, rfl, rfl, rfl, rfl, rfl, rfl, fun _ => le_refl _, rfl, rfl, fun _ _ _ _ => rfl⟩

theorem State.Failed.trans {s u v : State} {t : Txn} {m n : Nat} (h : s.Failed u t m) (h' : u.Failed v t n) :
    s.Failed v t (m + n) where
  ports := h'.ports.trans h.ports
  lockOwner := h'.lockOwner.trans h.lockOwner
  linkState := h'.linkState.trans h.linkState
  params := h'.params.trans h.params
  responses := h'.responses.trans h.responses
  attempt := by rw [h'.attempt, h.attempt, Nat.add_assoc]
  statsLength := h'.statsLength.trans h.statsLength
  softErrors := by rw [h'.softErrors, h.softErrors, Nat.add_assoc]
  bounded k := by have := h.bounded k; have := h'.bounded k; omega
  hard := h'.hard.trans h.hard
  txn := h'.txn.trans h.txn
  others b d k hne := (h'.others b d k hne).trans (h.others b d k hne)

theorem satInc_of_lt {w v : Nat} (h : v < 2 ^ w - 1) : satInc w v = v + 1 := if_pos h

/-- One soft error, of a counter that is not saturated (R159). -/
theorem failed_softError {s : State} {t : Txn} {e : VerifyError} (hl : s.stats.length = statCount)
    (h1 : 1 ≤ t.a.toNat) (h2 : t.a.toNat ≤ 32) (hroom : s.stat t.a.toNat t.f e.bucket < 2 ^ s.params.ctrW - 1) :
    s.Failed (s.softError t e) t 1 := by
  have hstat (b : Nat) (d : Dir) (k : Counter) : (s.softError t e).stat b d k =
      if b = t.a.toNat ∧ d = t.f ∧ k = e.bucket then s.stat b d k + 1 else s.stat b d k := by
    rw [stat_congr (s.softError_stats t e), incStat_stat _ _ hl h1 h2]
    split
    next hsame =>
      obtain ⟨rfl, rfl, rfl⟩ := hsame
      exact satInc_of_lt hroom
    next => rfl
  have hown (k : Counter) : (s.softError t e).stat t.a.toNat t.f k =
      if k = e.bucket then s.stat t.a.toNat t.f k + 1 else s.stat t.a.toNat t.f k := by simp [hstat]
  refine ⟨by simp, by simp, by simp, by simp, by simp, by simp, by simp, ?_, fun k => ?_, ?_, ?_, fun b d k hne => ?_⟩
  · simp only [State.softErrors, hown]
    cases e <;> simp [VerifyError.bucket] <;> omega
  · rw [hown]
    split <;> omega
  · rw [hown, if_neg e.bucket_ne_hard.symm]
  · rw [hown, if_neg (by cases e <;> decide)]
  · rw [hstat, if_neg fun ⟨hb, hd, _⟩ => hne ⟨hb, hd⟩]

/-- The events the environment offers for attempts whose windows are offered ws. -/
def windowEvents (ws : List (List Byte)) : List Event := ws.flatMap fun w => [.linkWrite .ok, .linkRead (.bytes w)]

theorem windowEvents_cons (w : List Byte) (ws : List (List Byte)) :
    windowEvents (w :: ws) = .linkWrite .ok :: .linkRead (.bytes w) :: windowEvents ws := rfl

theorem linkAnswers_windowEvents (ws : List (List Byte)) : LinkAnswers (windowEvents ws) := by
  intro e he
  obtain ⟨w, -, hw⟩ := List.mem_flatMap.1 he
  simp only [List.mem_cons, List.not_mem_nil, or_false] at hw
  rcases hw with rfl | rfl
  · exact .inl ⟨_, rfl⟩
  · exact .inr ⟨_, rfl⟩

theorem txn?_congr {s u : State} (lock : u.lockOwner = s.lockOwner) (ports : u.ports = s.ports) :
    u.txn? = s.txn? := by
  simp only [State.txn?, lock, ports]

/-- An attempt that fails, from the send to what follows its backoff (R159, R161). -/
theorem runSteps_failed {s : State} {t : Txn} {w : List Byte} {ws : List (List Byte)} {e : VerifyError}
    (ht : s.txn? = some t) (hin : s.inputs = windowEvents (w :: ws)) (hopen : s.linkState = .opened)
    (hverify : verify s.params.crcTable t.a t.f (w.take s.params.rxMax) = .err e)
    (hl : s.stats.length = statCount) (h1 : 1 ≤ t.a.toNat) (h2 : t.a.toNat ≤ 32)
    (hroom : s.stat t.a.toNat t.f e.bucket < 2 ^ s.params.ctrW - 1) :
    ∃ u, s.Failed u t 1 ∧ u.inputs = windowEvents ws ∧
      ∀ k, runSteps (k + 4) { s with tState := .tSend } = runSteps k (u.nextAttempt t) := by
  have hrest := linkAnswers_windowEvents ws
  let s₁ : State := { ({ s with tState := .tSend } : State).atCheck t w (windowEvents ws) with draws := s.draws + 1 }
  let s₂ : State := s₁.softError t e
  let u : State := { s₂ with draws := s₂.draws + 1 }
  have hfailed : s₁.Failed s₂ t 1 := failed_softError (s := s₁) hl h1 h2 hroom
  have hin₂ : s₂.inputs = windowEvents ws := s₁.softError_inputs t e
  have hstands : s₂.tState = .tBackoff := s₁.softError_tState t e
  have htu : u.txn? = some t := (txn?_congr hfailed.lockOwner hfailed.ports).trans ht
  have hown : s₂.ownMove = some .backoffEnd := by rw [State.ownMove, hstands]
  have hback : step s₂ = .next (u.nextAttempt t) :=
    (step_ownMove (not_enabled_of_linkAnswers (hin₂ ▸ hrest) (.inr hstands)) hown
      (enabled_backoffEnd.2 ⟨hstands, t, htu⟩)).trans (perform_backoffEnd htu)
  refine ⟨u, ⟨hfailed.ports, hfailed.lockOwner, hfailed.linkState, hfailed.params, hfailed.responses, hfailed.attempt,
    hfailed.statsLength, hfailed.softErrors, hfailed.bounded, hfailed.hard, hfailed.txn, hfailed.others⟩, hin₂,
    fun k => ?_⟩
  calc runSteps (k + 4) { s with tState := .tSend }
      = runSteps (k + 1) (s₁.checkReply t) :=
        runSteps_checked (s := { s with tState := .tSend }) ht (hin.trans (windowEvents_cons w ws)) hopen rfl hrest
          (k + 1)
    _ = runSteps (k + 1) s₂ := by rw [checkReply_err (s := s₁) hverify]
    _ = runSteps k (u.nextAttempt t) := runSteps_of_step hback k

/-- As many failing attempts as windows are offered, and then what follows the last attempt. -/
theorem runSteps_all_failed {t : Txn} (h1 : 1 ≤ t.a.toNat) (h2 : t.a.toNat ≤ 32) (ws : List (List Byte)) {s : State}
    (ht : s.txn? = some t) (hin : s.inputs = windowEvents ws) (hopen : s.linkState = .opened)
    (hfail : ∀ w ∈ ws, ∃ e, verify s.params.crcTable t.a t.f (w.take s.params.rxMax) = .err e)
    (hl : s.stats.length = statCount) (hroom : ∀ k, s.stat t.a.toNat t.f k + ws.length ≤ 2 ^ s.params.ctrW - 1)
    (hleft : s.attempt + ws.length = maxAttempts) :
    ∃ u, s.Failed u t ws.length ∧ runSteps (4 * ws.length) (s.nextAttempt t) = .next (u.nextAttempt t) := by
  induction ws generalizing s with
  | nil => exact ⟨s, .refl s t, rfl⟩
  | cons w ws ih =>
    rw [List.length_cons] at hroom hleft ⊢
    obtain ⟨e, he⟩ := hfail w List.mem_cons_self
    have hbucket : s.stat t.a.toNat t.f e.bucket < 2 ^ s.params.ctrW - 1 := by have := hroom e.bucket; omega
    obtain ⟨u, hone, hinu, hrun⟩ := runSteps_failed ht hin hopen he hl h1 h2 hbucket
    obtain ⟨v, hmore, hrun'⟩ := ih ((txn?_congr hone.lockOwner hone.ports).trans ht) hinu (hone.linkState.trans hopen)
      (fun w' hw' => hone.params ▸ hfail w' (List.mem_cons_of_mem w hw')) (hone.statsLength.trans hl)
      (fun k => by have := hroom k; have := hone.bounded k; rw [hone.params]; omega) (by rw [hone.attempt]; omega)
    refine ⟨v, Nat.add_comm 1 ws.length ▸ hone.trans hmore, ?_⟩
    rw [nextAttempt_retry t (by omega), Nat.mul_succ, hrun, hrun']

end Sys2Proof.Machine
end

section
/-! PROOFS. The statements about whole transactions (R154 to R165, R169). -/

namespace Sys2Proof.Machine

/-- Settles O37: the grant, then `runSteps_checked` for the granted port, whose reply the check accepts. -/
theorem oneGoodReplyCompletesATransaction : Obligations.OneGoodReplyCompletesATransaction := by
  intro s p c offered payload hinv hidle hopen hwaiting hcmd hin hverify
  have hfree : s.lockOwner = none := by
    obtain ⟨-, ⟨hheld, -⟩, -⟩ := hinv
    exact hheld.2 (.inr hidle)
  let t : Txn := ⟨p, addrField c.word, dirField c.word, c.data⟩
  let s₀ : State := { s with inputs := [.linkWrite .ok, .linkRead (.bytes offered)] }
  let s₁ : State := s₀.grantTo p
  have hgrant : step s = .next s₁ := step_head hin (enabled_grant.2 ⟨hidle, hfree, hwaiting⟩)
  obtain ⟨hactive, -, hcmd₁, hports₁⟩ := onlyPortState_of_modify (s := s₀) hcmd (s₀.grantTo_ports p)
  have hlock : s₁.lockOwner = some p := s₀.grantTo_lockOwner p
  have hcmd' : s₁.cmd? p = some c := hcmd₁.trans hcmd
  have ht : s₁.txn? = some t := txn_of_cmd hlock hcmd'
  have hinv₁ : s₁.Inv := inv_grantTo (s := s₀) hinv hfree hwaiting
  obtain ⟨hlow, hhigh⟩ := addr_of_lockOwner hinv₁ hlock hcmd'
  obtain ⟨⟨-, hlen, -⟩, -⟩ := hinv₁
  have hparams : s₁.params = s.params := s₀.grantTo_params p
  let s₂ : State := { s₁.atCheck t offered [] with draws := s₁.draws + 1 }
  have hrun : runSteps 3 s₁ = .next (s₂.checkReply t) :=
    runSteps_checked ht (s₀.grantTo_inputs p) ((s₀.grantTo_linkState p).trans hopen) (s₀.grantTo_tState p) nofun 0
  have hverify₂ : verify s₂.params.crcTable t.a t.f s₂.rxbuf = .ok payload := by
    change verify s₁.params.crcTable t.a t.f (offered.take s₁.params.rxMax) = .ok payload
    rwa [hparams]
  rw [checkReply_ok hverify₂] at hrun
  obtain ⟨hidle', -, -, hports₂⟩ := onlyPortState_of_modify (s := s₂) hcmd' (s₂.completeOk_ports t payload)
  refine ⟨_, (runSteps_of_step hgrant 3).trans hrun, ?_, hidle', by simp, by simp, ?_, ?_, ?_, ?_, fun b d k => ?_⟩
  · rw [s₂.completeOk_responses t payload]
    simp [s₂, s₁, s₀, t, State.atCheck, countByte]
  · simp [s₂, s₁, s₀, State.atCheck, hopen]
  · exact hports₁.trans hports₂
  · simp [s₂, s₁, s₀, State.atCheck]
  · simp [s₂, s₁, s₀, State.atCheck, t]
  · have hstats : s₂.stats = s.stats := s₀.grantTo_stats p
    rw [stat_congr (s₂.completeOk_stats t payload), incStat_stat (s := s₂) _ _ hlen hlow hhigh b d k,
      stat_congr hstats, show s₂.params = s.params from hparams]

/-- Settles O38: from its send the transaction stands where five attempts are left, all fail
(`runSteps_all_failed`), and what follows the fifth is the hard failure. -/
theorem fiveFailedAttemptsAreOneHardFailure : Obligations.FiveFailedAttemptsAreOneHardFailure := by
  intro s p c windows hinv hsend hopen hlock hcmd hattempt hfive hin hfail hroom
  obtain ⟨hlow, hhigh⟩ := addr_of_lockOwner hinv hlock hcmd
  obtain ⟨⟨-, hlen, -⟩, -⟩ := hinv
  let t : Txn := ⟨p, addrField c.word, dirField c.word, c.data⟩
  have ht : s.txn? = some t := txn_of_cmd hlock hcmd
  have hstart : s.nextAttempt t = s := by
    rw [nextAttempt_retry t (by rw [hattempt]; decide), ← hsend]
  obtain ⟨u, hu, hrun⟩ := runSteps_all_failed (t := t) hlow hhigh windows ht hin hopen hfail hlen
    (fun k => by rw [hfive]; exact hroom k) (by rw [hattempt, hfive]; rfl)
  rw [hstart, hfive] at hrun
  rw [hfive] at hu
  have hlast : ¬ u.attempt < maxAttempts := by rw [hu.attempt, hattempt]; decide
  rw [nextAttempt_hardFail t hlast] at hrun
  have hstat := hardFail_stat (s := u) (t := t) (hu.statsLength.trans hlen) hlow hhigh
  have hsame {k : Counter} (hk : k ≠ .hard ∧ k ≠ .txn) :
      (u.hardFail t).stat t.a.toNat t.f k = u.stat t.a.toNat t.f k := by simp [hstat, hk]
  have hcounted {k : Counter} (hk : k = .hard ∨ k = .txn) (hkept : u.stat t.a.toNat t.f k = s.stat t.a.toNat t.f k) :
      (u.hardFail t).stat t.a.toNat t.f k = s.stat t.a.toNat t.f k + 1 := by
    have hlt : s.stat t.a.toNat t.f k < 2 ^ s.params.ctrW - 1 := by have := hroom k; simp only [t]; omega
    rw [hstat, if_pos ⟨rfl, rfl, hk⟩, hkept, hu.params, satInc_of_lt hlt]
  obtain ⟨hidle, -, -, hports⟩ := onlyPortState_of_modify hcmd ((u.hardFail_ports t).trans (by rw [hu.ports]))
  refine ⟨u.hardFail t, hrun, ?_, ?_, hcounted (.inl rfl) hu.hard, hcounted (.inr rfl) hu.txn, fun b d k hne => ?_,
    u.hardFail_lockOwner t, u.hardFail_tState t, hidle, hports⟩
  · rw [u.hardFail_responses, hu.responses]
    rfl
  · refine Eq.trans ?_ hu.softErrors
    rw [State.softErrors, hsame (by decide), hsame (by decide), hsame (by decide), State.softErrors]
  · rw [hstat, if_neg fun ⟨hb, hd, _⟩ => hne ⟨hb, hd⟩]
    exact hu.others b d k hne

end Sys2Proof.Machine
end
